-- ==== Sys2Proof/Word.lean ====
section
/-! DEFINITION. The words of FPV-CORE's ports and its bit numbering: `spec/00_scope.md` rule R11 (bit 0 is the least
significant bit; a boolean is one bit; there is no signed integer) and `spec/30_encoding.md` rule R60 (the widths). -/

namespace Sys2Proof

/-- `cmd`, `opb` and a sample word: 32 bits (R60, R62; `FLEN = 32`, R9). -/
abbrev Word32 := BitVec 32

/-- `opa` and `res`: 64 bits (R60, R62, R63; `UW = 64`, R9). -/
abbrev Word64 := BitVec 64

/-- One byte of a byte image (R41). -/
abbrev Byte := BitVec 8

/-- A store index of the command word: 4 bits (R30 (1), R61). -/
abbrev StoreIdx := BitVec 4

end Sys2Proof
end

