-- ==== Sys2Proof/Config.lean ====
section
/-! DEFINITION. The instantiation parameters of FPV-CORE (`spec/00_scope.md` rules R6 to R9, `spec/10_state.md` rule
R27). They are fixed for the lifetime of a block, so a state carries them as data that no step changes: a statement about
every state is then a statement about every configuration. The spec leaves no value of a command open, so there is
no opaque free value here. -/

namespace Sys2Proof

/-- The six instantiation parameters of R9. `signBit` is `SIGN_BIT`, true for 1. -/
structure Params where
  maxSize : Nat
  integralBits : Nat
  decimalBits : Nat
  signBit : Bool
  bsN : Nat
  bsCount : Nat
deriving DecidableEq, Repr

namespace Params

/-- `SIGN_BIT` as a width, 0 or 1. -/
def signWidth (c : Params) : Nat := c.signBit.toNat

/-- `CHUNK_BITS = SIGN_BIT + INTEGRAL_BITS + DECIMAL_BITS` (R7). -/
def chunkBits (c : Params) : Nat := c.signWidth + c.integralBits + c.decimalBits

/-- `NV = MAX_SIZE * CHUNK_BITS`, the cells of the vector's store (R7). -/
def nv (c : Params) : Nat := c.maxSize * c.chunkBits

/-- `MAX_MAGNITUDE · 2^DECIMAL_BITS = 2^(INTEGRAL_BITS+DECIMAL_BITS) − 1`, an integer (R7, R123). -/
def maxQ (c : Params) : Nat := 2 ^ (c.integralBits + c.decimalBits) - 1

/-- `MAX_MAGNITUDE`, as R7's first formula has it. -/
def maxMagnitude (c : Params) : ℚ := (2 ^ c.integralBits - 1) + (1 - 1 / 2 ^ c.decimalBits)

/-- The target integer width of BTOU, `UW` (R9). -/
def uw : Nat := 64

/-- The constraints of R9. A configuration that breaks one cannot be instantiated. -/
abbrev Legal (c : Params) : Prop :=
  1 ≤ c.maxSize ∧ c.maxSize < 2 ^ 32 ∧
  c.integralBits + c.decimalBits ≤ 24 ∧ 1 ≤ c.chunkBits ∧
  1 ≤ c.bsN ∧ c.bsN < 2 ^ 32 ∧
  2 ≤ c.bsCount ∧ c.bsCount ≤ 16

/-- The bytes that back a store of `n` cells, `ceil(n/8)` (R31, R41). -/
def backingBytes (n : Nat) : Nat := (n + 7) / 8

/-- The reference configuration REF of R9. The reset state carries it: DESIGN CHOICE, see assumption log 1. -/
def ref : Params :=
  { maxSize := 10, integralBits := 5, decimalBits := 2, signBit := true, bsN := 12, bsCount := 4 }

end Params

end Sys2Proof
end

