-- ==== Sys2Proof/Syntax.lean ====
section
/-! DEFINITION. The requests and the 22 commands of FPV-CORE (`spec/30_encoding.md` rules R60 to R64). -/

namespace Sys2Proof

/-- One request on the request port: the command word and its two operand carriers (R60, R68). -/
structure Request where
  cmd : Word32
  opa : Word64
  opb : Word32
deriving DecidableEq, Repr

/-- The eight formats of a command word (R61). -/
inductive Format where
  | z | d | dv | a | da | ab | db | dab
deriving DecidableEq, Repr

/-- The rows of the opcode map, by mnemonic (R64). -/
inductive Opcode where
  | bzero | bldu | bget | bset | btest
  | ball | bany | bnone | bcount
  | band | bor | bxor | bnot | beq
  | banda | bora | bxora
  | btou
  | vappend | vget | vset | vsize
deriving DecidableEq, Repr

/-- A command with its operands: one constructor per row of `spec/opcode_table.json`. Store indices come from the command
word, positions, indices and unsigned values from `opa`, samples from `opb` (R62). -/
inductive Instr where
  /-- BZERO: create a store all-zero. -/
  | bzero (sd : StoreIdx)
  /-- BLDU: construct a store from an unsigned integer. -/
  | bldu (sd : StoreIdx) (u : Word64)
  /-- BGET: `get(p)` of a Bit Store. -/
  | bget (sa : StoreIdx) (p : Word64)
  /-- BSET: `set(p, v)` of a Bit Store. -/
  | bset (sd : StoreIdx) (p : Word64) (v : Bool)
  /-- BTEST: `test(p)`. -/
  | btest (sa : StoreIdx) (p : Word64)
  /-- BALL: `all()`. -/
  | ball (sa : StoreIdx)
  /-- BANY: `any()`. -/
  | bany (sa : StoreIdx)
  /-- BNONE: `none()`. -/
  | bnone (sa : StoreIdx)
  /-- BCOUNT: `count()`. -/
  | bcount (sa : StoreIdx)
  /-- BAND: AND, value form. -/
  | band (sd sa sb : StoreIdx)
  /-- BOR: OR, value form. -/
  | bor (sd sa sb : StoreIdx)
  /-- BXOR: XOR, value form. -/
  | bxor (sd sa sb : StoreIdx)
  /-- BNOT: NOT, value form. -/
  | bnot (sd sa : StoreIdx)
  /-- BEQ: equality of two stores. -/
  | beq (sa sb : StoreIdx)
  /-- BANDA: AND, assignment form. -/
  | banda (sd sb : StoreIdx)
  /-- BORA: OR, assignment form. -/
  | bora (sd sb : StoreIdx)
  /-- BXORA: XOR, assignment form. -/
  | bxora (sd sb : StoreIdx)
  /-- BTOU: `to_unsigned()`. -/
  | btou (sa : StoreIdx)
  /-- VAPPEND: `append(value)` of the Sample Vector. -/
  | vappend (w : Word32)
  /-- VGET: `get(n)` of the Sample Vector. -/
  | vget (n : Word64)
  /-- VSET: `set(n, value)`, the indexed assignment. -/
  | vset (n : Word64) (w : Word32)
  /-- VSIZE: `size()`. -/
  | vsize
deriving DecidableEq, Repr

/-- The row of R64 a command belongs to. -/
def Instr.opcode : Instr → Opcode
  | .bzero _ => .bzero
  | .bldu _ _ => .bldu
  | .bget _ _ => .bget
  | .bset _ _ _ => .bset
  | .btest _ _ => .btest
  | .ball _ => .ball
  | .bany _ => .bany
  | .bnone _ => .bnone
  | .bcount _ => .bcount
  | .band _ _ _ => .band
  | .bor _ _ _ => .bor
  | .bxor _ _ _ => .bxor
  | .bnot _ _ => .bnot
  | .beq _ _ => .beq
  | .banda _ _ => .banda
  | .bora _ _ => .bora
  | .bxora _ _ => .bxora
  | .btou _ => .btou
  | .vappend _ => .vappend
  | .vget _ => .vget
  | .vset _ _ => .vset
  | .vsize => .vsize

/-- The store indices a command uses: the fields R66 step 3 checks. -/
def Instr.stores : Instr → List StoreIdx
  | .bzero sd => [sd]
  | .bldu sd _ => [sd]
  | .bget sa _ => [sa]
  | .bset sd _ _ => [sd]
  | .btest sa _ => [sa]
  | .ball sa => [sa]
  | .bany sa => [sa]
  | .bnone sa => [sa]
  | .bcount sa => [sa]
  | .band sd sa sb => [sd, sa, sb]
  | .bor sd sa sb => [sd, sa, sb]
  | .bxor sd sa sb => [sd, sa, sb]
  | .bnot sd sa => [sd, sa]
  | .beq sa sb => [sa, sb]
  | .banda sd sb => [sd, sb]
  | .bora sd sb => [sd, sb]
  | .bxora sd sb => [sd, sb]
  | .btou sa => [sa]
  | .vappend _ => []
  | .vget _ => []
  | .vset _ _ => []
  | .vsize => []

end Sys2Proof
end

