-- ==== Sys2Proof/Decode.lean ====
section
/-! DEFINITION. The decoder and the encoder, from the tables of `spec/30_encoding.md` (rules R61 to R69). The decoder does
steps 1 and 2 of R66, total on every request; step 3 depends on the configuration and is the first thing a meaning
does (`legalStores` in Machine/Ops.lean). -/

namespace Sys2Proof

/-- The `op` column of R64. -/
def Opcode.byte : Opcode → BitVec 8
  | .bzero => 0x00
  | .bldu => 0x01
  | .bget => 0x02
  | .bset => 0x03
  | .btest => 0x04
  | .ball => 0x10
  | .bany => 0x11
  | .bnone => 0x12
  | .bcount => 0x13
  | .band => 0x20
  | .bor => 0x21
  | .bxor => 0x22
  | .bnot => 0x23
  | .beq => 0x24
  | .banda => 0x28
  | .bora => 0x29
  | .bxora => 0x2A
  | .btou => 0x30
  | .vappend => 0x40
  | .vget => 0x41
  | .vset => 0x42
  | .vsize => 0x43

/-- The `format` column of R64. -/
def Opcode.format : Opcode → Format
  | .bzero | .bldu => .d
  | .bset => .dv
  | .bget | .btest | .ball | .bany | .bnone | .bcount | .btou => .a
  | .bnot => .da
  | .beq => .ab
  | .banda | .bora | .bxora => .db
  | .band | .bor | .bxor => .dab
  | .vappend | .vget | .vset | .vsize => .z

/-- The `mask` column of R64: 1 at every bit that is fixed for the format (R65). -/
def Format.mask : Format → Word32
  | .z => 0xFFFFFFFF
  | .d => 0xFFFFF0FF
  | .dv => 0xFFEFF0FF
  | .a => 0xFFFF0FFF
  | .da => 0xFFFF00FF
  | .ab => 0xFFF00FFF
  | .db => 0xFFF0F0FF
  | .dab => 0xFFF000FF

/-- The `match` column of R64: `op` in bits 7:0 and 0 elsewhere (R65). -/
def Opcode.pattern (o : Opcode) : Word32 := o.byte.zeroExtend 32

/-- The 22 rows, in the order of R64. -/
def Opcode.rows : List Opcode :=
  [.bzero, .bldu, .bget, .bset, .btest, .ball, .bany, .bnone, .bcount, .band, .bor, .bxor, .bnot, .beq,
   .banda, .bora, .bxora, .btou, .vappend, .vget, .vset, .vsize]

/-- R66 step 1: the row whose `op` is the byte, if there is one. -/
def Opcode.ofByte (b : BitVec 8) : Option Opcode := Opcode.rows.find? (fun o => o.byte == b)

/-- Field `op` of a command word, bits 7:0 (R61). -/
def opField (c : Word32) : BitVec 8 := c.extractLsb' 0 8

/-- Field `sd`, bits 11:8 (R61). -/
def sdField (c : Word32) : StoreIdx := c.extractLsb' 8 4

/-- Field `sa`, bits 15:12 (R61). -/
def saField (c : Word32) : StoreIdx := c.extractLsb' 12 4

/-- Field `sb`, bits 19:16 (R61). -/
def sbField (c : Word32) : StoreIdx := c.extractLsb' 16 4

/-- Field `v`, bit 20 (R61). -/
def vField (c : Word32) : Bool := c.getLsbD 20

/-- R62: the operands a row takes from the command word and the carriers. A carrier the row does not use is ignored. -/
def Opcode.operands (o : Opcode) (r : Request) : Instr :=
  match o with
  | .bzero => .bzero (sdField r.cmd)
  | .bldu => .bldu (sdField r.cmd) r.opa
  | .bget => .bget (saField r.cmd) r.opa
  | .bset => .bset (sdField r.cmd) r.opa (vField r.cmd)
  | .btest => .btest (saField r.cmd) r.opa
  | .ball => .ball (saField r.cmd)
  | .bany => .bany (saField r.cmd)
  | .bnone => .bnone (saField r.cmd)
  | .bcount => .bcount (saField r.cmd)
  | .band => .band (sdField r.cmd) (saField r.cmd) (sbField r.cmd)
  | .bor => .bor (sdField r.cmd) (saField r.cmd) (sbField r.cmd)
  | .bxor => .bxor (sdField r.cmd) (saField r.cmd) (sbField r.cmd)
  | .bnot => .bnot (sdField r.cmd) (saField r.cmd)
  | .beq => .beq (saField r.cmd) (sbField r.cmd)
  | .banda => .banda (sdField r.cmd) (sbField r.cmd)
  | .bora => .bora (sdField r.cmd) (sbField r.cmd)
  | .bxora => .bxora (sdField r.cmd) (sbField r.cmd)
  | .btou => .btou (saField r.cmd)
  | .vappend => .vappend r.opb
  | .vget => .vget r.opa
  | .vset => .vset r.opa r.opb
  | .vsize => .vsize

/-- R66 steps 1 and 2, total on every request. `none` is IllegalCommand: no row has the opcode, or a reserved bit or an
unused field is not 0. -/
def decode (r : Request) : Option Instr :=
  match Opcode.ofByte (opField r.cmd) with
  | none => none
  | some o => if r.cmd &&& o.format.mask = o.pattern then some (o.operands r) else none

/-- The command word `op | sd<<8 | sa<<12 | sb<<16 | v<<20` of R69, with `zero` in bits 31:21 (R61). -/
def commandWord (o : Opcode) (sd sa sb : StoreIdx) (v : Bool) : Word32 :=
  0#11 ++ BitVec.ofBool v ++ sb ++ sa ++ sd ++ o.byte

/-- The request of a command, from R61, R62 and R69. A carrier the command does not use is 0, as this spec's listings
write it (R71). -/
def encode : Instr → Request
  | .bzero sd => ⟨commandWord .bzero sd 0 0 false, 0, 0⟩
  | .bldu sd u => ⟨commandWord .bldu sd 0 0 false, u, 0⟩
  | .bget sa p => ⟨commandWord .bget 0 sa 0 false, p, 0⟩
  | .bset sd p v => ⟨commandWord .bset sd 0 0 v, p, 0⟩
  | .btest sa p => ⟨commandWord .btest 0 sa 0 false, p, 0⟩
  | .ball sa => ⟨commandWord .ball 0 sa 0 false, 0, 0⟩
  | .bany sa => ⟨commandWord .bany 0 sa 0 false, 0, 0⟩
  | .bnone sa => ⟨commandWord .bnone 0 sa 0 false, 0, 0⟩
  | .bcount sa => ⟨commandWord .bcount 0 sa 0 false, 0, 0⟩
  | .band sd sa sb => ⟨commandWord .band sd sa sb false, 0, 0⟩
  | .bor sd sa sb => ⟨commandWord .bor sd sa sb false, 0, 0⟩
  | .bxor sd sa sb => ⟨commandWord .bxor sd sa sb false, 0, 0⟩
  | .bnot sd sa => ⟨commandWord .bnot sd sa 0 false, 0, 0⟩
  | .beq sa sb => ⟨commandWord .beq 0 sa sb false, 0, 0⟩
  | .banda sd sb => ⟨commandWord .banda sd 0 sb false, 0, 0⟩
  | .bora sd sb => ⟨commandWord .bora sd 0 sb false, 0, 0⟩
  | .bxora sd sb => ⟨commandWord .bxora sd 0 sb false, 0, 0⟩
  | .btou sa => ⟨commandWord .btou 0 sa 0 false, 0, 0⟩
  | .vappend w => ⟨commandWord .vappend 0 0 0 false, 0, w⟩
  | .vget n => ⟨commandWord .vget 0 0 0 false, n, 0⟩
  | .vset n w => ⟨commandWord .vset 0 0 0 false, n, w⟩
  | .vsize => ⟨commandWord .vsize 0 0 0 false, 0, 0⟩

/-- Whether a row uses `opa` (the operand table of R62). -/
def Opcode.usesOpa : Opcode → Bool
  | .bldu | .bget | .bset | .btest | .vget | .vset => true
  | .bzero | .ball | .bany | .bnone | .bcount | .band | .bor | .bxor | .bnot | .beq | .banda | .bora | .bxora
  | .btou | .vappend | .vsize => false

/-- Whether a row uses `opb` (the operand table of R62). -/
def Opcode.usesOpb : Opcode → Bool
  | .vappend | .vset => true
  | .bzero | .bldu | .bget | .bset | .btest | .ball | .bany | .bnone | .bcount | .band | .bor | .bxor | .bnot
  | .beq | .banda | .bora | .bxora | .btou | .vget | .vsize => false

/-- A request from one number: `cmd` in bits 31:0, `opa` in bits 95:32, `opb` in bits 127:96, the order in which R60 and
R68 list the three words (DESIGN CHOICE, assumption log 4: the spec gives a request no byte order, R43). -/
def Request.ofBits (w : Nat) : Request :=
  ⟨BitVec.ofNat 32 w, BitVec.ofNat 64 (w >>> 32), BitVec.ofNat 32 (w >>> 96)⟩

/-- The instruction the decoder reads from the low `nbits` bits of `w`, every bit above them 0. -/
def decodeTableWord (nbits w : Nat) : Option Instr := decode (Request.ofBits (w % 2 ^ nbits))

end Sys2Proof
end

