-- ==== Sys2Proof/Machine/State.lean ====
section
/-! DEFINITION. The state of FPV-CORE (`spec/10_state.md` rules R20 to R34), the outcomes of a command
(`spec/60_exceptions.md` rule R150), what the host sends, and the reset state. -/

namespace Sys2Proof.Machine

/-- A Bit Store: an ordered sequence of boolean cells, cell `p` at index `p` (R21). A state that meets
`State.Inv` (Safety.lean) gives each store exactly the number of cells its parameter says. -/
abbrev Store := List Bool

/-- The six errors of R150. -/
inductive Err where
  /-- Code 1: the command word is not a legal encoding (R66, R67). -/
  | illegalCommand
  /-- Code 2: a bit position `p ≥ BS_N` (R80). -/
  | rangeError
  /-- Code 3: VAPPEND with `size = MAX_SIZE` (R140). -/
  | capacityError
  /-- Code 4: VGET or VSET with `n ≥ size` (R141, R142). -/
  | boundsError
  /-- Code 5: BTOU when `BS_N > 64` (R109). -/
  | widthError
  /-- Code 6: VAPPEND or VSET whose sample word is a NaN (R136). -/
  | invalidSample
deriving DecidableEq, Repr

/-- The status of a response: OK or one of the six errors; the codes 7 to 15 are never produced (R150). -/
inductive Status where
  | ok
  | err (e : Err)
deriving DecidableEq, Repr

/-- One response on the response port (R60). -/
structure Response where
  status : Status
  res : Word64
deriving DecidableEq, Repr

/-- What the outside world can do to the block, one event at a time (R48, R170, R171). -/
inductive Input where
  /-- The host transfers a request (R60). -/
  | command (r : Request)
  /-- `rst = 1` at a rising edge with no command in flight (R170). -/
  | reset
  /-- The host transfers a request and `rst = 1` at a rising edge before its response is transferred (R171). -/
  | resetInFlight (r : Request)
deriving DecidableEq, Repr

/-- The state. `stores`, `v` and `size` are the architectural state of R20; `cfg` holds the hardwired constants of R27.
The last three fields are the MODEL's own (assumption log 2, 3): what the host still sends, what the block has answered,
and whether the block has been reset since power-on (R172). -/
structure State where
  cfg : Params
  stores : List Store
  v : Store
  size : Nat
  wasReset : Bool
  inputs : List Input
  responses : List Response
deriving DecidableEq, Repr

/-- No step of this hardware stops the machine with a fault: an error is a response of the command that caused it, and the
block goes on (R156, R157); every command completes (R48). The type therefore has no constructor (safe). -/
inductive Fault : Type
deriving DecidableEq, Repr

/-- Why the model gives a step no meaning. -/
inductive Refusal where
  /-- An arm of `exec` for an instruction that has no meaning yet; no arm is one now (safe). -/
  | notModelled (mnemonic : String)
  /-- Raised by `step` in a configuration that breaks a constraint of R9: such a block cannot be instantiated, and a
  model refuses it (safe). -/
  | illegalConfiguration
  /-- Raised by `step` for a command sent before the first reset: the state is unspecified then, and a model gives it no
  value (R172; S8 of `spec/93_implementation_defined.md`) (safe). -/
  | beforeFirstReset
deriving DecidableEq, Repr

/-- The outcome of a step or of a command's meaning. -/
abbrev Result := Host.Outcome State Fault Refusal

/-- A store of `n` cells, all 0. -/
def zeroStore (n : Nat) : Store := List.replicate n false

/-- The reset state of a block with parameters `c` (R34): `size` and every cell 0. -/
def State.resetFor (c : Params) : State :=
  { cfg := c
    stores := List.replicate c.bsCount (zeroStore c.bsN)
    v := zeroStore c.nv
    size := 0
    wasReset := true
    inputs := []
    responses := [] }

/-- The reset state of the block with the reference parameters REF (R9, R34). The parameters are OPEN in the spec;
that this state carries REF is a DESIGN CHOICE (assumption log 1). -/
def State.reset : State := State.resetFor Params.ref

end Sys2Proof.Machine
end

