-- ==== Sys2Proof/Machine/Flags.lean ====
section
/-! DEFINITION. FPV-CORE has no status flag, no condition code and no predicate register (`spec/10_state.md` rule R25), so no
flag is computed here. What a command reports instead is its response: the placement of a result in `res`
(`spec/30_encoding.md` rule R63) and the 4-bit status code (`spec/60_exceptions.md` rule R150). -/

namespace Sys2Proof.Machine

/-- `code(E)` (R150). -/
def Err.code : Err → BitVec 4
  | .illegalCommand => 1
  | .rangeError => 2
  | .capacityError => 3
  | .boundsError => 4
  | .widthError => 5
  | .invalidSample => 6

/-- The `status` field of a response (R150). -/
def Status.code : Status → BitVec 4
  | .ok => 0
  | .err e => e.code

/-- A boolean result: `res[0]`, `res[63:1] = 0` (R63). -/
def resOfBool (b : Bool) : Word64 := (BitVec.ofBool b).zeroExtend 64

/-- A count, an unsigned conversion or the size: the integer in 64 bits (R63). -/
def resOfNat (n : Nat) : Word64 := BitVec.ofNat 64 n

/-- A decoded sample: `res[31:0]`, `res[63:32] = 0` (R63). -/
def resOfSample (w : Word32) : Word64 := w.zeroExtend 64

end Sys2Proof.Machine
end

