-- ==== Sys2Proof/WellFormed.lean ====
section
/-! DEFINITION. When a command is legal in a configuration: `spec/30_encoding.md` rule R66 step 3. The check is by value
(it depends on `BS_COUNT`); every other condition of R66 concerns bit patterns, which the decoder checks and no `Instr`
can break. -/

namespace Sys2Proof

/-- The store index selects a store of the file: its value is `< BS_COUNT` (R66 step 3). -/
abbrev InFile (c : Params) (k : StoreIdx) : Prop := k.toNat < c.bsCount

/-- Every store index the command uses selects a store of the file (R66 step 3). -/
abbrev Instr.WF (c : Params) (i : Instr) : Prop := ∀ k ∈ i.stores, InFile c k

end Sys2Proof
end

