-- ==== Sys2Proof/Machine/Ops.lean ====
section
/-! DEFINITION. The named operations over a Bit Store and over the state: cell and field access (`spec/00_scope.md` rules
R12, R13), the byte image (`spec/20_memory.md` rules R40 to R46), the ends of a command `done` and `raise` (R15, R156),
the store-index check (`spec/30_encoding.md` rule R66 step 3) and reset (`spec/70_reset_and_hazards.md` rule R170). -/

namespace Sys2Proof.Machine

/-! ### Cells and fields of one store -/

/-- `X[p]` (R12). No rule reads a position `p ≥ N(X)`: every position is checked or computed in range first. -/
def cell (X : Store) (p : Nat) : Bool := X.getD p false

/-- `X[p] <- b`: that cell and no other (R12, R46). -/
def setCell (X : Store) (p : Nat) (b : Bool) : Store := X.set p b

/-- `FieldRead(X, b, w)`, the least significant bit at the lowest position (R13). -/
def fieldRead (X : Store) (b : Nat) : Nat → Nat
  | 0 => 0
  | w + 1 => (cell X b).toNat + 2 * fieldRead X (b + 1) w

/-- `FieldWrite(X, b, w, u)`, the least significant bit at the lowest position (R13). -/
def fieldWrite (X : Store) (b : Nat) : Nat → Nat → Store
  | 0, _ => X
  | w + 1, u => fieldWrite (setCell X b (u % 2 == 1)) (b + 1) w (u / 2)

/-- The integer `Σ X[p] · 2^p` of a store (R43, R109). -/
def natOfStore : Store → Nat
  | [] => 0
  | b :: X => b.toNat + 2 * natOfStore X

/-- The store of `n` cells whose cell `p` is bit `p` of `u`, and 0 above bit 63 (R82). -/
def storeOfWord (n : Nat) (u : Word64) : Store := (List.range n).map u.getLsbD

/-! ### The byte image: a view, no port (R14, R30, R41) -/

/-- `Byte(X, b)`: the cells `8b … 8b+7` that exist, offset `j` with weight `2^j`; padding offsets are 0 (R41, R42). -/
def byteOf (X : Store) (b : Nat) : Byte := BitVec.ofNat 8 (natOfStore ((X.drop (8 * b)).take 8))

/-- The byte image of a store: its `ceil(N/8)` bytes (R41). -/
def byteImage (X : Store) : List Byte := (List.range (Params.backingBytes X.length)).map (byteOf X)

/-- `MemRead(X, a, n)`, for `a + n ≤ ceil(N(X)/8)` (R14). There is no `MemWrite`: nothing writes a store by bytes. -/
def memRead (X : Store) (a n : Nat) : Option (List Byte) :=
  if a + n ≤ Params.backingBytes X.length then some ((List.range n).map fun i => byteOf X (a + i)) else none

/-- The reference software's mask-merge `byte ^= (-v ^ byte) & (1 << offset)` (R46), which no command needs. -/
def maskMerge (byte : Byte) (v : Bool) (offset : Nat) : Byte :=
  byte ^^^ ((-(BitVec.ofBool v).zeroExtend 8 ^^^ byte) &&& (1#8 <<< offset))

/-! ### The store file and the end of a command -/

/-- Store `B[k]` of the file (R22). -/
def State.store (s : State) (k : StoreIdx) : Store := s.stores.getD k.toNat []

/-- `B[k] <- X` (R12): that store and nothing else. -/
def State.setStore (s : State) (k : StoreIdx) (X : Store) : State :=
  { s with stores := s.stores.set k.toNat X }

/-- `V <- X` (R12). -/
def State.setVector (s : State) (X : Store) : State := { s with v := X }

/-- `size <- k` (R12). -/
def State.setSize (s : State) (k : Nat) : State := { s with size := k }

/-- The block gives one response. It is the model's record of the response port (assumption log 3); no command reads it
(R25). -/
def State.respond (s : State) (r : Response) : State := { s with responses := s.responses ++ [r] }

/-- `done(r)`: the command ends with status OK and result `r` (R15). -/
def done (r : Word64) (s : State) : Result := .next (s.respond ⟨.ok, r⟩)

/-- `raise E`: taking an error. The command ends at once with status `code(E)` and `res = 0`; nothing is saved, no mode
changes, control goes nowhere, and no other state changes (R15, R151, R156). There is no return from it: the
next request is executed as after any other response (R157). -/
def raise (e : Err) (s : State) : Result := .next (s.respond ⟨.err e, 0⟩)

/-- R66 step 3, before anything else a command does (R155): if a store index is `≥ BS_COUNT`, IllegalCommand. -/
def legalStores (ks : List StoreIdx) (s : State) (body : Result) : Result :=
  if ∀ k ∈ ks, InFile s.cfg k then body else raise .illegalCommand s

/-! ### Reset and the request stream -/

/-- One rising edge with `rst = 1`: the state becomes the reset state of the same block (R170). What the host still sends
and what it has received already are outside the block and stay. -/
def State.afterReset (s : State) (rest : List Input) : State :=
  { State.resetFor s.cfg with inputs := rest, responses := s.responses }

/-- The host's request is taken from the stream (R48, R60). -/
def State.takeInput (s : State) (rest : List Input) : State := { s with inputs := rest }

end Sys2Proof.Machine
end

