-- ==== Sys2Proof/Machine/Operands.lean ====
section
/-! DEFINITION. The operand forms: positions and entry indices with their bounds checks. `p` and `n` are the whole of
`opa` as an unsigned integer, no bit dropped before the comparison (`spec/30_encoding.md` rule R62,
`spec/45_laws_and_absent_classes.md` rule R190). A command's checks run in the order of `spec/60_exceptions.md` rule R155:
store indices, then these, then the sample. -/

namespace Sys2Proof.Machine

/-- The bit position `p` of BGET, BSET and BTEST: RangeError if `p ≥ BS_N` (R80). -/
def atPosition (p : Word64) (s : State) (body : Nat → Result) : Result :=
  if p.toNat < s.cfg.bsN then body p.toNat else raise .rangeError s

/-- The entry index `n` of VGET and VSET: BoundsError if `n ≥ size` (R141, R142). -/
def atEntry (n : Word64) (s : State) (body : Nat → Result) : Result :=
  if n.toNat < s.size then body n.toNat else raise .boundsError s

/-- The implicit entry index `size` of VAPPEND: CapacityError if `size ≥ MAX_SIZE` (R140). -/
def atFreeSlot (s : State) (body : Nat → Result) : Result :=
  if s.size < s.cfg.maxSize then body s.size else raise .capacityError s

end Sys2Proof.Machine
end

