-- ==== Sys2Proof/Machine/Algebra.lean ====
section
/-! DEFINITION. Bit Store Boolean algebra, equality and conversion (`spec/42_bitstore_algebra.md`). All source cells are
read before any destination cell is written, so every overlap of store indices is legal (R100). -/

namespace Sys2Proof.Machine

/-- A cell-wise binary operator into a destination store (R100). -/
def combineStores (f : Bool → Bool → Bool) (sd sa sb : StoreIdx) (s : State) : Result :=
  legalStores [sd, sa, sb] s <| done 0 (s.setStore sd (List.zipWith f (s.store sa) (s.store sb)))

/-- BAND (R101). -/
def execBand (sd sa sb : StoreIdx) (s : State) : Result := combineStores and sd sa sb s

/-- BOR (R102). -/
def execBor (sd sa sb : StoreIdx) (s : State) : Result := combineStores or sd sa sb s

/-- BXOR (R103). -/
def execBxor (sd sa sb : StoreIdx) (s : State) : Result := combineStores xor sd sa sb s

/-- BNOT (R104): exactly the cells of the store, no padding offset. -/
def execBnot (sd sa : StoreIdx) (s : State) : Result :=
  legalStores [sd, sa] s <| done 0 (s.setStore sd ((s.store sa).map not))

/-- BEQ (R105). -/
def execBeq (sa sb : StoreIdx) (s : State) : Result :=
  legalStores [sa, sb] s <| done (resOfBool (s.store sa == s.store sb)) s

/-- BANDA (R106): `B[sd]` is the first source too. -/
def execBanda (sd sb : StoreIdx) (s : State) : Result := combineStores and sd sd sb s

/-- BORA (R107): `B[sd]` is the first source too. -/
def execBora (sd sb : StoreIdx) (s : State) : Result := combineStores or sd sd sb s

/-- BXORA (R108): `B[sd]` is the first source too. -/
def execBxora (sd sb : StoreIdx) (s : State) : Result := combineStores xor sd sd sb s

/-- BTOU (R109): WidthError when `BS_N > 64`. -/
def execBtou (sa : StoreIdx) (s : State) : Result :=
  legalStores [sa] s <|
    if s.cfg.bsN ≤ Params.uw then done (resOfNat (natOfStore (s.store sa))) s else raise .widthError s

end Sys2Proof.Machine
end

