-- ==== Sys2Proof/Machine/BitAccess.lean ====
section
/-! DEFINITION. Bit Store construction and single-bit access (`spec/40_bitstore_access.md`). -/

namespace Sys2Proof.Machine

/-- BZERO (R81). -/
def execBzero (sd : StoreIdx) (s : State) : Result :=
  legalStores [sd] s <| done 0 (s.setStore sd (zeroStore s.cfg.bsN))

/-- BLDU (R82). -/
def execBldu (sd : StoreIdx) (u : Word64) (s : State) : Result :=
  legalStores [sd] s <| done 0 (s.setStore sd (storeOfWord s.cfg.bsN u))

/-- The one-cell read that BGET and BTEST share (R80, R86). -/
def readBit (sa : StoreIdx) (p : Word64) (s : State) : Result :=
  legalStores [sa] s <| atPosition p s fun k => done (resOfBool (cell (s.store sa) k)) s

/-- BGET (R83). -/
def execBget (sa : StoreIdx) (p : Word64) (s : State) : Result := readBit sa p s

/-- BSET (R84). -/
def execBset (sd : StoreIdx) (p : Word64) (v : Bool) (s : State) : Result :=
  legalStores [sd] s <| atPosition p s fun k => done 0 (s.setStore sd (setCell (s.store sd) k v))

/-- BTEST (R85). -/
def execBtest (sa : StoreIdx) (p : Word64) (s : State) : Result := readBit sa p s

end Sys2Proof.Machine
end

