-- ==== Sys2Proof/Machine/Reduce.lean ====
section
/-! DEFINITION. Bit Store whole-store reductions (`spec/41_bitstore_reduce.md`). They range over the cells of the store
only (R42). -/

namespace Sys2Proof.Machine

/-- A command that answers a function of one store and changes no state. -/
def reduceStore (sa : StoreIdx) (f : Store → Word64) (s : State) : Result :=
  legalStores [sa] s <| done (f (s.store sa)) s

/-- BALL (R90). -/
def execBall (sa : StoreIdx) (s : State) : Result := reduceStore sa (fun X => resOfBool (X.all id)) s

/-- BANY (R91). -/
def execBany (sa : StoreIdx) (s : State) : Result := reduceStore sa (fun X => resOfBool (X.any id)) s

/-- BNONE (R92). -/
def execBnone (sa : StoreIdx) (s : State) : Result := reduceStore sa (fun X => resOfBool (X.all not)) s

/-- BCOUNT (R93). -/
def execBcount (sa : StoreIdx) (s : State) : Result := reduceStore sa (fun X => resOfNat (X.count true)) s

end Sys2Proof.Machine
end

