-- ==== Sys2Proof/Machine/Codec.lean ====
section
/-! DEFINITION. The fixed-point codec: reading a sample word, the quantizer, the layout of a chunk, the encoder and the
decoder (`spec/43_fixed_point_codec.md`). -/

namespace Sys2Proof.Machine

/-! ### Reading a sample word (IEEE 754 binary32) -/

/-- The classes of R120. -/
inductive SampleClass where
  | nan | inf | zero | finite
deriving DecidableEq, Repr

/-- `s = w[31]` (R120). -/
def signBitOf (w : Word32) : Bool := w.getLsbD 31

/-- `E = w[30:23]` (R120). -/
def exponentOf (w : Word32) : BitVec 8 := w.extractLsb' 23 8

/-- `F = w[22:0]` (R120). -/
def fractionOf (w : Word32) : BitVec 23 := w.extractLsb' 0 23

/-- `Class(w)` (R120). -/
def classOf (w : Word32) : SampleClass :=
  if exponentOf w = 255 then (if fractionOf w = 0 then .inf else .nan)
  else if exponentOf w = 0 ∧ fractionOf w = 0 then .zero
  else .finite

/-- `Neg(w)`, the test `value < 0`: false for negative zero (R121). -/
def negOf (w : Word32) : Bool :=
  signBitOf w && (classOf w == .finite || classOf w == .inf)

/-- `sig` of R121. -/
def significandOf (w : Word32) : Nat :=
  if exponentOf w = 0 then (fractionOf w).toNat else 2 ^ 23 + (fractionOf w).toNat

/-- `ex` of R121. -/
def scaleOf (w : Word32) : Int :=
  if exponentOf w = 0 then -149 else (exponentOf w).toNat - 150

/-- A magnitude: a rational or `+∞` (R121). -/
inductive Magnitude where
  | finite (m : ℚ)
  | infinite
deriving DecidableEq, Repr

/-- `Mag(w)`, exact; none for a NaN, which has no magnitude (R121). -/
def magnitudeOf (w : Word32) : Option Magnitude :=
  match classOf w with
  | .nan => none
  | .inf => some .infinite
  | .zero => some (.finite 0)
  | .finite => some (.finite (significandOf w * 2 ^ scaleOf w))

/-- The real value of a word; none for a NaN and for an infinity (R121). -/
def valueOf (w : Word32) : Option ℚ :=
  match magnitudeOf w with
  | some (.finite m) => some (if signBitOf w then -m else m)
  | _ => none

/-! ### The quantizer -/

/-- The quantizer's `(neg, i, d)` (R125). -/
structure Quantized where
  neg : Bool
  i : Nat
  d : Nat
deriving DecidableEq, Repr

/-- `floor(Mag(w) · 2^D)` of a finite word, by R123's form `sig · 2^sh` or `sig div 2^(−sh)` with `sh = ex + D`. -/
def scaledFloor (w : Word32) (D : Nat) : Nat :=
  match scaleOf w + D with
  | .ofNat sh => significandOf w * 2 ^ sh
  | .negSucc k => significandOf w / 2 ^ (k + 1)

/-- `q = min(floor(m · 2^D), 2^(I+D) − 1)` (R123); `+∞` saturates (R122); none for a NaN (R136). -/
def quantizedInteger (c : Params) (w : Word32) : Option Nat :=
  match classOf w with
  | .nan => none
  | .inf => some c.maxQ
  | .zero => some 0
  | .finite => some (min (scaledFloor w c.decimalBits) c.maxQ)

/-- `Quantize(w)`, in R123's single-integer form `i = q div 2^D`, `d = q mod 2^D`; none for a NaN, to which it is never
applied (R125, R136). -/
def quantize (c : Params) (w : Word32) : Option Quantized :=
  (quantizedInteger c w).map fun q => ⟨negOf w, q / 2 ^ c.decimalBits, q % 2 ^ c.decimalBits⟩

/-- Encode steps 1 to 5 on exact rationals, the normative form (R122, R123, R138). The machine runs `quantize`; that
the two agree is a statement of this row. -/
def quantizeExact (c : Params) (w : Word32) : Option Quantized :=
  (magnitudeOf w).map fun m =>
    let clamped : ℚ := match m with
      | .finite m => min m c.maxMagnitude
      | .infinite => c.maxMagnitude
    let i := ⌊clamped⌋
    ⟨negOf w, i.toNat, ⌊(clamped - i) * 2 ^ c.decimalBits⌋.toNat⟩

/-! ### Bit offsets of a chunk (R126) -/

/-- `Base(n)` and `SignPos(n)`. -/
def chunkBase (c : Params) (n : Nat) : Nat := n * c.chunkBits

/-- `IntPos(n)`. -/
def intPos (c : Params) (n : Nat) : Nat := chunkBase c n + c.signWidth

/-- `FracPos(n)`. -/
def fracPos (c : Params) (n : Nat) : Nat := chunkBase c n + c.signWidth + c.integralBits

/-! ### Encoder and decoder -/

/-- The three writes of `EncodeChunk` (R127): sign cell (if there is one), integral field, fractional field. -/
def writeChunk (c : Params) (V : Store) (n : Nat) (z : Quantized) : Store :=
  let V := if c.signBit then setCell V (chunkBase c n) z.neg else V
  let V := fieldWrite V (intPos c n) c.integralBits z.i
  fieldWrite V (fracPos c n) c.decimalBits z.d

/-- `EncodeChunk(n, w)` on the contents of `V`; none for a NaN (R127, R136). -/
def encodeChunk (c : Params) (V : Store) (n : Nat) (w : Word32) : Option Store :=
  (quantize c w).map (writeChunk c V n)

/-- `F32(neg, q, D)`: the binary32 word of `±q / 2^D`, exact (R129). -/
def f32 (neg : Bool) (q D : Nat) : Word32 :=
  if q = 0 then BitVec.ofBool neg ++ 0#31
  else
    let e := Nat.log2 q
    BitVec.ofBool neg ++ BitVec.ofNat 8 (e + 127 - D) ++ BitVec.ofNat 23 ((q - 2 ^ e) * 2 ^ (23 - e))

/-- The stored sign of chunk `n`: the sign cell, positive when `SIGN_BIT = 0` (R128 step 3, R135). -/
def chunkNeg (c : Params) (V : Store) (n : Nat) : Bool := c.signBit && cell V (chunkBase c n)

/-- The stored magnitude of chunk `n` as the integer `q = i · 2^D + d` (R128 steps 1 and 2). -/
def chunkQ (c : Params) (V : Store) (n : Nat) : Nat :=
  fieldRead V (intPos c n) c.integralBits * 2 ^ c.decimalBits + fieldRead V (fracPos c n) c.decimalBits

/-- `DecodeChunk(n)` (R128): total on every contents of `V` (R130). -/
def decodeChunk (c : Params) (V : Store) (n : Nat) : Word32 :=
  f32 (chunkNeg c V n) (chunkQ c V n) c.decimalBits

end Sys2Proof.Machine
end

