-- ==== Sys2Proof/Machine/SampleVector.lean ====
section
/-! DEFINITION. The Sample Vector commands (`spec/44_sample_vector.md`). -/

namespace Sys2Proof.Machine

/-- Encode a sample into chunk `n` of `V`, or InvalidSample for a NaN, and go on with the new contents (R127, R136). -/
def withEncoded (n : Nat) (w : Word32) (s : State) (body : Store → Result) : Result :=
  match encodeChunk s.cfg s.v n w with
  | none => raise .invalidSample s
  | some V => body V

/-- VAPPEND (R140): the chunk index is the value of `size` before the increment. -/
def execVappend (w : Word32) (s : State) : Result :=
  atFreeSlot s fun n => withEncoded n w s fun V => done 0 ((s.setVector V).setSize (n + 1))

/-- VGET (R141). -/
def execVget (n : Word64) (s : State) : Result :=
  atEntry n s fun n => done (resOfSample (decodeChunk s.cfg s.v n)) s

/-- VSET (R142). -/
def execVset (n : Word64) (w : Word32) (s : State) : Result :=
  atEntry n s fun n => withEncoded n w s fun V => done 0 (s.setVector V)

/-- VSIZE (R143). -/
def execVsize (s : State) : Result := done (resOfNat s.size) s

end Sys2Proof.Machine
end

