-- ==== Sys2Proof/Machine/Dispatch.lean ====
section
/-! DEFINITION. One arm per command of `spec/opcode_table.json`, each one call of its meaning. -/

namespace Sys2Proof.Machine

def exec (i : Instr) (s : State) : Host.Outcome State Fault Refusal :=
  match i with
  | .bzero sd => Sys2Proof.Machine.execBzero sd s
  | .bldu sd u => Sys2Proof.Machine.execBldu sd u s
  | .bget sa p => Sys2Proof.Machine.execBget sa p s
  | .bset sd p v => Sys2Proof.Machine.execBset sd p v s
  | .btest sa p => Sys2Proof.Machine.execBtest sa p s
  | .ball sa => Sys2Proof.Machine.execBall sa s
  | .bany sa => Sys2Proof.Machine.execBany sa s
  | .bnone sa => Sys2Proof.Machine.execBnone sa s
  | .bcount sa => Sys2Proof.Machine.execBcount sa s
  | .band sd sa sb => Sys2Proof.Machine.execBand sd sa sb s
  | .bor sd sa sb => Sys2Proof.Machine.execBor sd sa sb s
  | .bxor sd sa sb => Sys2Proof.Machine.execBxor sd sa sb s
  | .bnot sd sa => Sys2Proof.Machine.execBnot sd sa s
  | .beq sa sb => Sys2Proof.Machine.execBeq sa sb s
  | .banda sd sb => Sys2Proof.Machine.execBanda sd sb s
  | .bora sd sb => Sys2Proof.Machine.execBora sd sb s
  | .bxora sd sb => Sys2Proof.Machine.execBxora sd sb s
  | .btou sa => Sys2Proof.Machine.execBtou sa s
  | .vappend w => Sys2Proof.Machine.execVappend w s
  | .vget n => Sys2Proof.Machine.execVget n s
  | .vset n w => Sys2Proof.Machine.execVset n w s
  | .vsize => Sys2Proof.Machine.execVsize s

end Sys2Proof.Machine
end

