-- ==== Sys2Proof/Machine/Step.lean ====
section
/-! DEFINITION. One step: the next event of the host's stream, executed completely (`spec/20_memory.md` rule R48,
`spec/30_encoding.md` rule R60: the model is a function applied to the requests in order). -/

namespace Sys2Proof.Machine

/-- One request, decoded (R66) and executed; an illegal word is answered with IllegalCommand (R67). -/
def runRequest (r : Request) (s : State) : Result :=
  match decode r with
  | none => raise .illegalCommand s
  | some i => exec i s

/-- One event. With nothing sent, the block is idle and nothing changes (R154, R161). A reset at an edge with a command in
flight abandons the command: no response, and the reset state (R171). -/
def step (s : State) : Host.Outcome State Fault Refusal :=
  if s.cfg.Legal then
    match s.inputs with
    | [] => .next s
    | .command r :: rest =>
      if s.wasReset then runRequest r (s.takeInput rest) else .refused .beforeFirstReset
    | .reset :: rest => .next (s.afterReset rest)
    | .resetInFlight _ :: rest => .next (s.afterReset rest)
  else .refused .illegalConfiguration

/-- The state whose next event is the request with the bits `w` (the bits from `nbits` up are 0), before everything else
the host sends (assumption log 4). -/
def State.withFetchWord (s : State) (nbits w : Nat) : State :=
  { s with inputs := .command (Request.ofBits (w % 2 ^ nbits)) :: s.inputs }

end Sys2Proof.Machine
end

