-- ==== Sys2Proof/Machine/Assembler.lean ====
section
/-! DEFINITION. The assembler of `spec/30_encoding.md` rules R69 and R72: which request one assembler line stands for, on
tokens (a mnemonic and its operands), and the pseudo-commands. The hardware sees only the request. The text of a line is not
modelled: the spec gives no lexical grammar (assumption log 6). -/

namespace Sys2Proof.Machine

/-- An operand of an assembler line: a store `b0 … b15`, an integer, or a sample, written as its word or as a decimal literal
`±digits · 10^−places` (R69). -/
inductive Arg where
  | store (k : Nat)
  | int (n : Nat)
  | sample (w : Word32)
  | decimal (neg : Bool) (digits places : Nat)
deriving DecidableEq, Repr

/-- The nearest integer, ties to even. -/
def roundHalfEven (y : ℚ) : Int :=
  let f := ⌊y⌋
  if y - f < 1 / 2 then f else if 1 / 2 < y - f then f + 1 else if f % 2 = 0 then f else f + 1

/-- `floor(log2(m / d))` for `m, d ≥ 1`: the difference of the two integer logarithms, or one less. -/
def floorLog2 (m d : Nat) : Int :=
  let e : Int := m.log2 - d.log2
  if (m : ℚ) / d < 2 ^ e then e - 1 else e

/-- The binary32 value nearest to a decimal literal, ties to even (R69). In units of the last place the magnitude is an
integer; that integer, added to the exponent field, is the word without its sign. A literal that is zero
or rounds to zero keeps its sign, and one that rounds past the largest finite word is the infinity of its sign: PRESUMED, IEEE
754 (assumption log 6). -/
def binary32OfDecimal (neg : Bool) (digits places : Nat) : Word32 :=
  if digits = 0 then BitVec.ofBool neg ++ 0#31
  else
    let ulp := max (floorLog2 digits (10 ^ places) - 23) (-149)
    let n := roundHalfEven ((digits : ℚ) / 10 ^ places / 2 ^ ulp)
    BitVec.ofBool neg ++ BitVec.ofNat 31 (min ((ulp + 149).toNat * 2 ^ 23 + n.toNat) 0x7F800000)

/-- A sample operand in `opb`: a word unchanged, a decimal literal converted (R69). -/
def sampleArg : Arg → Option Word32
  | .sample w => some w
  | .decimal neg digits places => some (binary32OfDecimal neg digits places)
  | .store _ => none
  | .int _ => none

/-- A store operand in a field of the command word: `b0 … b15`. -/
def storeArg (k : Nat) : Option StoreIdx := if k < 16 then some (BitVec.ofNat 4 k) else none

/-- An integer operand in `opa`: no bit of it is dropped. -/
def intArg (n : Nat) : Option Word64 := if n < 2 ^ 64 then some (BitVec.ofNat 64 n) else none

/-- The `v` operand of BSET is `0` or `1`. -/
def bitArg (n : Nat) : Option Bool := if n = 0 then some false else if n = 1 then some true else none

/-- One store operand. -/
def oneStore (f : StoreIdx → Instr) : List Arg → Option Instr
  | [.store a] => (storeArg a).map f
  | _ => none

/-- Two store operands. -/
def twoStores (f : StoreIdx → StoreIdx → Instr) : List Arg → Option Instr
  | [.store a, .store b] => (storeArg a).bind fun a => (storeArg b).map (f a)
  | _ => none

/-- Three store operands. -/
def threeStores (f : StoreIdx → StoreIdx → StoreIdx → Instr) : List Arg → Option Instr
  | [.store a, .store b, .store d] => (storeArg a).bind fun a => (storeArg b).bind fun b => (storeArg d).map (f a b)
  | _ => none

/-- A store and an integer operand. -/
def storeInt (f : StoreIdx → Word64 → Instr) : List Arg → Option Instr
  | [.store a, .int n] => (storeArg a).bind fun a => (intArg n).map (f a)
  | _ => none

/-- The operands of BSET: a store, a position, a bit. -/
def storeIntBit (f : StoreIdx → Word64 → Bool → Instr) : List Arg → Option Instr
  | [.store a, .int n, .int v] => (storeArg a).bind fun a => (intArg n).bind fun n => (bitArg v).map (f a n)
  | _ => none

/-- One integer operand. -/
def oneInt (f : Word64 → Instr) : List Arg → Option Instr
  | [.int n] => (intArg n).map f
  | _ => none

/-- One sample operand. -/
def oneSample (f : Word32 → Instr) : List Arg → Option Instr
  | [a] => (sampleArg a).map f
  | _ => none

/-- An integer and a sample operand. -/
def intSample (f : Word64 → Word32 → Instr) : List Arg → Option Instr
  | [.int n, a] => (intArg n).bind fun n => (sampleArg a).map (f n)
  | _ => none

/-- No operand. -/
def noOperand (i : Instr) : List Arg → Option Instr
  | [] => some i
  | _ => none

/-- The command a line names: the syntax table of R69, operands destination first. -/
def parseLine (o : Opcode) (args : List Arg) : Option Instr :=
  match o with
  | .bzero => oneStore .bzero args
  | .bldu => storeInt .bldu args
  | .bget => storeInt .bget args
  | .bset => storeIntBit .bset args
  | .btest => storeInt .btest args
  | .ball => oneStore .ball args
  | .bany => oneStore .bany args
  | .bnone => oneStore .bnone args
  | .bcount => oneStore .bcount args
  | .band => threeStores .band args
  | .bor => threeStores .bor args
  | .bxor => threeStores .bxor args
  | .bnot => twoStores .bnot args
  | .beq => twoStores .beq args
  | .banda => twoStores .banda args
  | .bora => twoStores .bora args
  | .bxora => twoStores .bxora args
  | .btou => oneStore .btou args
  | .vappend => oneSample .vappend args
  | .vget => oneInt .vget args
  | .vset => intSample .vset args
  | .vsize => noOperand .vsize args

/-- The request of one assembler line, unused carriers 0 (R69, R71). -/
def assemble (o : Opcode) (args : List Arg) : Option Request := (parseLine o args).map encode

/-- The pseudo-commands of R72. -/
inductive Pseudo where
  /-- `bA[p]` as a value. -/
  | proxyRead (a : StoreIdx) (p : Word64)
  /-- `bD[p] = v`. -/
  | proxyWrite (d : StoreIdx) (p : Word64) (v : Bool)
  /-- `v[n] = x`. -/
  | indexedAssign (n : Word64) (x : Word32)
  /-- `v[n]` as a value. -/
  | indexedRead (n : Word64)
  /-- `BMOV bD, bA`. -/
  | bmov (d a : StoreIdx)
  /-- `BFLIP bD`. -/
  | bflip (d : StoreIdx)
deriving DecidableEq, Repr

/-- The one command a pseudo-command expands to (R72). -/
def expand : Pseudo → Instr
  | .proxyRead a p => .bget a p
  | .proxyWrite d p v => .bset d p v
  | .indexedAssign n x => .vset n x
  | .indexedRead n => .vget n
  | .bmov d a => .bor d a a
  | .bflip d => .bnot d d

end Sys2Proof.Machine
end

