-- ==== Sys2Proof/Machine/Port.lean ====
section
/-! DEFINITION. The request and response ports, clock edge by clock edge (`spec/30_encoding.md` rule R60,
`spec/70_reset_and_hazards.md` rules R170, R171, R178). A layer over `step`, which needs none of it: the handshake's own
phase is no architectural state (`spec/10_state.md` rules R32, R33). What the spec leaves to the block at an edge is an input
of that edge: whether an idle block accepts a request, and whether a block with a command in flight presents its response
(assumption log 7). -/

namespace Sys2Proof.Machine

/-- What the host drives at one rising edge of `clk` (R60), and what the spec leaves to the block there: `accept`, an idle
block accepts a request (R170), and `present`, a block with a command in flight drives `resp_valid` (R60, R178). -/
structure Pins where
  rst : Bool
  reqValid : Bool
  request : Request
  respReady : Bool
  accept : Bool
  present : Bool
deriving DecidableEq, Repr

/-- Where the one transaction stands: at most one command is in flight (R60). -/
inductive Phase where
  /-- After an edge with `rst = 1`, until the first edge with `rst = 0` (R170). -/
  | held
  /-- No command is in flight. -/
  | idle
  /-- A request was transferred; its response, which this is, is not (R60). -/
  | inFlight (a : Response)
deriving DecidableEq, Repr

/-- The block with its ports. -/
structure Port where
  phase : Phase
  core : State
deriving DecidableEq, Repr

/-- What the block drives (R60): `req_ready`, and the response with its `status` code and `res` while `resp_valid = 1`.
The spec gives `status` and `res` no value while `resp_valid = 0`, and neither does this. -/
structure PortOutputs where
  reqReady : Bool
  response : Option (BitVec 4 × Word64)
deriving DecidableEq, Repr

/-- One event of the host, given to the block before everything else it still sends. -/
def feed (e : Input) (s : State) : Result := step { s with inputs := e :: s.inputs }

/-- The response a command gave: the last one recorded. -/
def lastResponse (s : State) : Option Response := s.responses.getLast?

/-- The outputs at an edge. While `rst = 1`, `req_ready = resp_valid = 0` (R170); `req_ready = 0` while a command is in
flight (R60). DESIGN CHOICE (assumption log 7): a response can be presented from the edge after the one that transferred its
request, not at that edge itself; from then on `present` decides at every edge, so a block may present it at once, later, or
withdraw it and present it again, each time with the same `status` and `res`. -/
def Port.outputs (p : Port) (e : Pins) : PortOutputs :=
  match p.phase with
  | .idle => ⟨!e.rst && e.accept, none⟩
  | .inFlight a => ⟨false, if !e.rst && e.present then some (a.status.code, a.res) else none⟩
  | .held => ⟨false, none⟩

/-- Execute the command of a transferred request: its writes are one indivisible step (R48), and when within its latency
they happen is not observable (R32). The response is not yet the host's. -/
def Port.start (p : Port) (r : Request) : Host.Outcome Port Fault Refusal :=
  match feed (.command r) p.core with
  | .next t =>
    match lastResponse t with
    | some a => .next ⟨.inFlight a, { t with responses := p.core.responses }⟩
    | none => .next ⟨.idle, t⟩
  | .fault f => .fault f
  | .refused x => .refused x

/-- One rising edge of `clk` (R60, R170, R171). DESIGN CHOICE (assumption log 7): the response is transferred at the first edge,
after the edge of its request, at which it is presented and the host is ready; the spec says neither the smallest latency
nor whether a presented response may be withdrawn, and both are left to `present`. -/
def Port.edge (p : Port) (e : Pins) : Host.Outcome Port Fault Refusal :=
  if e.rst then
    match feed .reset p.core with
    | .next t => .next ⟨.held, t⟩
    | .fault f => .fault f
    | .refused x => .refused x
  else
    match p.phase with
    | .held => .next { p with phase := .idle }
    | .idle => if e.reqValid && e.accept then p.start e.request else .next p
    | .inFlight a => .next (if e.present && e.respReady then ⟨.idle, p.core.respond a⟩ else p)

/-- A sequence of rising edges. -/
def Port.edges (p : Port) : List Pins → Host.Outcome Port Fault Refusal
  | [] => .next p
  | e :: es =>
    match p.edge e with
    | .next p' => p'.edges es
    | .fault f => .fault f
    | .refused x => .refused x

end Sys2Proof.Machine
end

