-- ==== Sys2Proof/Safety.lean ====
section
/-! DEFINITION. What holds of every state a run reaches, and the terms in which claims say what a command does and what it
leaves unchanged (`spec/10_state.md` rules R21, R23, R29; `spec/20_memory.md` rules R45 to R47; `spec/60_exceptions.md`
rules R153, R156). -/

namespace Sys2Proof.Machine

/-! ### The invariant -/

/-- The invariant of a block: its configuration is legal (R9), it has `BS_COUNT` stores of `BS_N` cells and a vector store
of `NV` cells, sizes that never change (R20, R21), and `size ≤ MAX_SIZE` (R26, R29 (a)). -/
abbrev State.Inv (s : State) : Prop :=
  s.cfg.Legal ∧
  s.stores.length = s.cfg.bsCount ∧
  (∀ X ∈ s.stores, X.length = s.cfg.bsN) ∧
  s.v.length = s.cfg.nv ∧
  s.size ≤ s.cfg.maxSize

/-- The block may execute the request it gets next: the configuration is legal and it has been reset (R9, R172). -/
abbrev State.Ready (s : State) : Prop := s.cfg.Legal ∧ s.wasReset = true

/-! ### What a command leaves unchanged -/

/-- The command gave exactly one response, `a` (R60); the configuration, the host's stream and the reset record stay. -/
abbrev Answered (s t : State) (a : Response) : Prop :=
  t.responses = s.responses ++ [a] ∧ t.inputs = s.inputs ∧ t.wasReset = s.wasReset ∧ t.cfg = s.cfg

/-- Every store of the file is as before (R23). -/
abbrev FileKept (s t : State) : Prop := t.stores = s.stores

/-- Every store of the file but `B[d]` is as before, and their number (R23). -/
abbrev OtherStoresKept (s t : State) (d : StoreIdx) : Prop :=
  t.stores.length = s.stores.length ∧ ∀ k : StoreIdx, k ≠ d → t.store k = s.store k

/-- The vector's store and `size` are as before (R22, R23). -/
abbrev VectorKept (s t : State) : Prop := t.v = s.v ∧ t.size = s.size

/-- Only `B[d]` and the response are new: the frame of a command that writes a store of the file (R45). The store keeps its
number of cells (R21). -/
abbrev WroteStore (s t : State) (d : StoreIdx) (a : Response) : Prop :=
  Answered s t a ∧ OtherStoresKept s t d ∧ VectorKept s t ∧ (t.store d).length = s.cfg.bsN

/-- Only the response is new: the frame of a command that reads (R47), and of every error (R156). -/
abbrev OnlyAnswered (s t : State) (a : Response) : Prop :=
  Answered s t a ∧ FileKept s t ∧ VectorKept s t

/-- The cells of a vector store outside chunk `n` are as before, and their number (R46, R127). -/
abbrev OtherChunksKept (c : Params) (V W : Store) (n : Nat) : Prop :=
  W.length = V.length ∧
  ∀ p, (p < n * c.chunkBits ∨ (n + 1) * c.chunkBits ≤ p) → cell W p = cell V p

/-- Chunk `n` of `V` holds sign, integral and fractional field of `z` at the positions of R126, least significant bit
first (R13). -/
abbrev ChunkHolds (c : Params) (V : Store) (n : Nat) (z : Quantized) : Prop :=
  (c.signBit = true → cell V (n * c.chunkBits) = z.neg) ∧
  (∀ j < c.integralBits, cell V (n * c.chunkBits + c.signWidth + j) = z.i.testBit j) ∧
  (∀ j < c.decimalBits, cell V (n * c.chunkBits + c.signWidth + c.integralBits + j) = z.d.testBit j)

/-- The unsigned field of `w` cells of `X` at position `b`, as the sum of R13. -/
def fieldSum (X : Store) (b w : Nat) : Nat := ∑ j ∈ Finset.range w, (cell X (b + j)).toNat * 2 ^ j

/-! ### Answers and sequences -/

/-- The response a command gives in a state. -/
def answer (i : Instr) (s : State) : Option Response :=
  match exec i s with
  | .next t => lastResponse t
  | _ => none

/-- Commands executed one after the other (R48, R51). -/
def execAll : List Instr → State → Result
  | [], s => .next s
  | i :: is, s =>
    match exec i s with
    | .next t => execAll is t
    | .fault f => .fault f
    | .refused x => .refused x

/-- The commands of a sequence that were VAPPENDs answered with OK, counted against the responses they got (R144). -/
def okAppends : List Instr → List Response → Nat
  | i :: is, a :: as => (if i.opcode = .vappend ∧ a.status = .ok then 1 else 0) + okAppends is as
  | _, _ => 0

/-! ### Tables of the spec that statements are checked against -/

/-- The `mask` and `match` columns of R64, row by row as the table prints them. -/
def specRow : Opcode → Word32 × Word32
  | .bzero => (0xFFFFF0FF, 0x00000000)
  | .bldu => (0xFFFFF0FF, 0x00000001)
  | .bget => (0xFFFF0FFF, 0x00000002)
  | .bset => (0xFFEFF0FF, 0x00000003)
  | .btest => (0xFFFF0FFF, 0x00000004)
  | .ball => (0xFFFF0FFF, 0x00000010)
  | .bany => (0xFFFF0FFF, 0x00000011)
  | .bnone => (0xFFFF0FFF, 0x00000012)
  | .bcount => (0xFFFF0FFF, 0x00000013)
  | .band => (0xFFF000FF, 0x00000020)
  | .bor => (0xFFF000FF, 0x00000021)
  | .bxor => (0xFFF000FF, 0x00000022)
  | .bnot => (0xFFFF00FF, 0x00000023)
  | .beq => (0xFFF00FFF, 0x00000024)
  | .banda => (0xFFF0F0FF, 0x00000028)
  | .bora => (0xFFF0F0FF, 0x00000029)
  | .bxora => (0xFFF0F0FF, 0x0000002A)
  | .btou => (0xFFFF0FFF, 0x00000030)
  | .vappend => (0xFFFFFFFF, 0x00000040)
  | .vget => (0xFFFFFFFF, 0x00000041)
  | .vset => (0xFFFFFFFF, 0x00000042)
  | .vsize => (0xFFFFFFFF, 0x00000043)

/-- A command word selects a row of R64. -/
abbrev Selects (o : Opcode) (c : Word32) : Prop := c &&& (specRow o).1 = (specRow o).2

/-- The condition under which R153's table lets a command with legal store indices raise an error. -/
def mayRaise (s : State) : Instr → Err → Prop
  | .bget _ p, .rangeError => s.cfg.bsN ≤ p.toNat
  | .bset _ p _, .rangeError => s.cfg.bsN ≤ p.toNat
  | .btest _ p, .rangeError => s.cfg.bsN ≤ p.toNat
  | .btou _, .widthError => 64 < s.cfg.bsN
  | .vappend _, .capacityError => s.size = s.cfg.maxSize
  | .vappend w, .invalidSample => classOf w = .nan
  | .vget n, .boundsError => s.size ≤ n.toNat
  | .vset n _, .boundsError => s.size ≤ n.toNat
  | .vset _ w, .invalidSample => classOf w = .nan
  | _, _ => False

/-- The conditions under which R153's table lets a request raise an error: its word fails decode (R66 steps 1 and 2), a store
index is outside the file (step 3), or the condition of its command's row holds. -/
def requestError (s : State) (r : Request) (e : Err) : Prop :=
  match decode r with
  | none => e = .illegalCommand
  | some i => (e = .illegalCommand ∧ ∃ k ∈ i.stores, s.cfg.bsCount ≤ k.toNat) ∨ mayRaise s i e

/-- The place of an error in R155's order: decode, the command's operand check, the sample. -/
def errorRank : Err → Nat
  | .illegalCommand => 1
  | .widthError | .rangeError | .capacityError | .boundsError => 2
  | .invalidSample => 3

/-- R63: what `res` may be when the command completes with OK. -/
def resultShape : Opcode → Word64 → Prop
  | .bget, x | .btest, x | .ball, x | .bany, x | .bnone, x | .beq, x => x = 0 ∨ x = 1
  | .vget, x => x.toNat < 2 ^ 32
  | .bcount, _ | .btou, _ | .vsize, _ => True
  | .bzero, x | .bldu, x | .bset, x | .band, x | .bor, x | .bxor, x | .bnot, x | .banda, x | .bora, x | .bxora, x
  | .vappend, x | .vset, x => x = 0

/-- The ten commands that read and change no state (R47). -/
def isRead : Opcode → Bool
  | .bget | .btest | .ball | .bany | .bnone | .bcount | .beq | .btou | .vget | .vsize => true
  | .bzero | .bldu | .bset | .band | .bor | .bxor | .bnot | .banda | .bora | .bxora | .vappend | .vset => false

/-- The four commands on the Sample Vector (R22, R28). -/
def isVector : Opcode → Bool
  | .vappend | .vget | .vset | .vsize => true
  | .bzero | .bldu | .bget | .bset | .btest | .ball | .bany | .bnone | .bcount | .band | .bor | .bxor | .bnot
  | .beq | .banda | .bora | .bxora | .btou => false

/-- The commands R47 excepts from strict idempotency: VAPPEND, BXOR with `sd ∈ {sa, sb}`, BNOT with `sd = sa`, BXORA. -/
def notIdempotent : Instr → Prop
  | .vappend _ => True
  | .bxor sd sa sb => sd = sa ∨ sd = sb
  | .bnot sd sa => sd = sa
  | .bxora _ _ => True
  | _ => False

/-- The command word formula of R69, on numbers: `op | sd<<8 | sa<<12 | sb<<16 | v<<20`. -/
def lineWord (op sd sa sb v : Nat) : Word32 :=
  BitVec.ofNat 32 (op ||| sd <<< 8 ||| sa <<< 12 ||| sb <<< 16 ||| v <<< 20)

/-- The value of a decimal literal `±digits · 10^−places` (R69). -/
def decimalValue (neg : Bool) (digits places : Nat) : ℚ :=
  if neg then -((digits : ℚ) / 10 ^ places) else (digits : ℚ) / 10 ^ places

/-- `w` is the binary32 word nearest to `x`, ties to even: its value is at least as near as every other word's, and where
another value is equally near the significand of `w` is even (R69). -/
def NearestEven (w : Word32) (x : ℚ) : Prop :=
  ∃ r, valueOf w = some r ∧ ∀ w' r', valueOf w' = some r' →
    |r - x| ≤ |r' - x| ∧ (|r - x| = |r' - x| → r' = r ∨ w.getLsbD 0 = false)

/-! ### One whole transaction on the ports (R60) -/

/-- An edge at which the response in flight is not transferred: it is not presented or the host does not take it. Whatever
else the host drives has no effect. -/
def waitEdge (e : Pins) : Pins := { e with rst := false, respReady := e.respReady && !e.present }

/-- The edges of one transaction: the request is transferred at the first, any number of edges `xs` pass at which the response
is not transferred, and it is transferred at the last. -/
def transaction (r : Request) (e : Pins) (xs : List Pins) (e' : Pins) : List Pins :=
  [{ e with rst := false, reqValid := true, request := r, accept := true }] ++ xs.map waitEdge ++
  [{ e' with rst := false, respReady := true, present := true }]

end Sys2Proof.Machine
end

