-- ==== Sys2Proof/Certificates/Slice0/Obligations.lean ====
section
/-! DEFINITION. The statements of this row. Each docstring names the rule of `spec/` it formalises. -/

open Sys2Proof Sys2Proof.Machine

/-! ### Encoding (`spec/30_encoding.md`) -/

/-- Decoding the request of a command gives the command back, with every operand at every value (R61, R62, R69). -/
def Obligations.DecodeInvertsEncode : Prop :=
  ∀ i : Instr, decode (encode i) = some i

/-- Encoding what was decoded gives the command word back, and the carriers the command uses: no encoding executes as
another command (R67). -/
def Obligations.EncodeInvertsDecode : Prop :=
  ∀ (r : Request) (i : Instr), decode r = some i →
    (encode i).cmd = r.cmd ∧
    (i.opcode.usesOpa = true → (encode i).opa = r.opa) ∧
    (i.opcode.usesOpb = true → (encode i).opb = r.opb)

/-- The words this spec writes out decode to the commands it says (R64, R69, and the examples of R82 to R109). -/
def Obligations.SpecWordsDecode : Prop :=
  decode ⟨0x00000200, 0, 0⟩ = some (.bzero 2) ∧
  decode ⟨0x00000001, 0x5A3, 0⟩ = some (.bldu 0 0x5A3) ∧
  decode ⟨0x00100103, 7, 0⟩ = some (.bset 1 7 true) ∧
  decode ⟨0x00003013, 0, 0⟩ = some (.bcount 3) ∧
  decode ⟨0x00010220, 0, 0⟩ = some (.band 2 0 1) ∧
  decode ⟨0x00002323, 0, 0⟩ = some (.bnot 3 2) ∧
  decode ⟨0x00032024, 0, 0⟩ = some (.beq 2 3) ∧
  decode ⟨0x0001002A, 0, 0⟩ = some (.bxora 0 1) ∧
  decode ⟨0x00001030, 0, 0⟩ = some (.btou 1) ∧
  decode ⟨0x00000042, 1, 0xC0200000⟩ = some (.vset 1 0xC0200000) ∧
  decode ⟨0x00000102, 0, 0⟩ = none ∧
  decode ⟨0x00100043, 0, 0⟩ = none ∧
  decode ⟨0x0000002B, 0, 0⟩ = none

/-- The decoder accepts a command word exactly when a row of R64's table selects it, with that row's command (R64; R66
steps 1 and 2); no word is selected by two rows (R65). -/
def Obligations.DecodeFollowsMaskAndMatch : Prop :=
  (∀ (r : Request) (o : Opcode), (∃ i, decode r = some i ∧ i.opcode = o) ↔ Selects o r.cmd) ∧
  ∀ (c : Word32) (o o' : Opcode), Selects o c → Selects o' c → o = o'

/-- A carrier that a command does not use has no effect (R62). -/
def Obligations.UnusedCarriersIgnored : Prop :=
  ∀ (c : Word32) (opa opa' : Word64) (opb opb' : Word32) (s : State),
    (∀ o, Selects o c → (o.usesOpa = true → opa = opa') ∧ (o.usesOpb = true → opb = opb')) →
    runRequest ⟨c, opa, opb⟩ s = runRequest ⟨c, opa', opb'⟩ s

/-- A store index `≥ BS_COUNT` in any field a command uses: IllegalCommand before every other error, nothing changes (R66
step 3, R155). -/
def Obligations.StoreIndexOutsideFile : Prop :=
  ∀ (i : Instr) (s : State), (∃ k ∈ i.stores, s.cfg.bsCount ≤ k.toNat) →
    ∃ t, exec i s = .next t ∧ OnlyAnswered s t ⟨.err .illegalCommand, 0⟩

/-- The syntax table of R69, row by row: each line, destination first, is the request with the fields and carriers the row sets
and 0 elsewhere; a decimal sample is converted to the nearest binary32 word, ties to even. Every line that assembles decodes
to a command of its mnemonic. Two things are not R69's but the model's (assumption log 6): that lines are lists of tokens, and
the clause that the word has the literal's sign bit where R69's nearest value does not give it, which is for a literal that is
zero, that rounds to zero or that is out of range. -/
def Obligations.AssembledLineDecodes : Prop :=
  (∀ (d a b n v m k : Nat) (neg : Bool) (x : Word32), d < 16 → a < 16 → b < 16 → n < 2 ^ 64 → v < 2 →
    assemble .bzero [.store d] = some ⟨lineWord 0x00 d 0 0 0, 0, 0⟩ ∧
    assemble .bldu [.store d, .int n] = some ⟨lineWord 0x01 d 0 0 0, BitVec.ofNat 64 n, 0⟩ ∧
    assemble .bget [.store a, .int n] = some ⟨lineWord 0x02 0 a 0 0, BitVec.ofNat 64 n, 0⟩ ∧
    assemble .bset [.store d, .int n, .int v] = some ⟨lineWord 0x03 d 0 0 v, BitVec.ofNat 64 n, 0⟩ ∧
    assemble .btest [.store a, .int n] = some ⟨lineWord 0x04 0 a 0 0, BitVec.ofNat 64 n, 0⟩ ∧
    assemble .ball [.store a] = some ⟨lineWord 0x10 0 a 0 0, 0, 0⟩ ∧
    assemble .bany [.store a] = some ⟨lineWord 0x11 0 a 0 0, 0, 0⟩ ∧
    assemble .bnone [.store a] = some ⟨lineWord 0x12 0 a 0 0, 0, 0⟩ ∧
    assemble .bcount [.store a] = some ⟨lineWord 0x13 0 a 0 0, 0, 0⟩ ∧
    assemble .band [.store d, .store a, .store b] = some ⟨lineWord 0x20 d a b 0, 0, 0⟩ ∧
    assemble .bor [.store d, .store a, .store b] = some ⟨lineWord 0x21 d a b 0, 0, 0⟩ ∧
    assemble .bxor [.store d, .store a, .store b] = some ⟨lineWord 0x22 d a b 0, 0, 0⟩ ∧
    assemble .bnot [.store d, .store a] = some ⟨lineWord 0x23 d a 0 0, 0, 0⟩ ∧
    assemble .beq [.store a, .store b] = some ⟨lineWord 0x24 0 a b 0, 0, 0⟩ ∧
    assemble .banda [.store d, .store b] = some ⟨lineWord 0x28 d 0 b 0, 0, 0⟩ ∧
    assemble .bora [.store d, .store b] = some ⟨lineWord 0x29 d 0 b 0, 0, 0⟩ ∧
    assemble .bxora [.store d, .store b] = some ⟨lineWord 0x2A d 0 b 0, 0, 0⟩ ∧
    assemble .btou [.store a] = some ⟨lineWord 0x30 0 a 0 0, 0, 0⟩ ∧
    assemble .vappend [.sample x] = some ⟨lineWord 0x40 0 0 0 0, 0, x⟩ ∧
    assemble .vget [.int n] = some ⟨lineWord 0x41 0 0 0 0, BitVec.ofNat 64 n, 0⟩ ∧
    assemble .vset [.int n, .sample x] = some ⟨lineWord 0x42 0 0 0 0, BitVec.ofNat 64 n, x⟩ ∧
    assemble .vsize [] = some ⟨lineWord 0x43 0 0 0 0, 0, 0⟩ ∧
    assemble .vappend [.decimal neg m k] = some ⟨lineWord 0x40 0 0 0 0, 0, binary32OfDecimal neg m k⟩ ∧
    assemble .vset [.int n, .decimal neg m k] = some ⟨lineWord 0x42 0 0 0 0, BitVec.ofNat 64 n, binary32OfDecimal neg m k⟩) ∧
  (∀ (neg : Bool) (m k : Nat), signBitOf (binary32OfDecimal neg m k) = neg ∧
    ((m : ℚ) / 10 ^ k ≤ (2 ^ 24 - 1) * 2 ^ 104 → NearestEven (binary32OfDecimal neg m k) (decimalValue neg m k))) ∧
  ∀ (o : Opcode) (args : List Arg) (r : Request), assemble o args = some r →
    ∃ i, decode r = some i ∧ i.opcode = o ∧ parseLine o args = some i

/-- BMOV copies a store and BFLIP complements one in place (R72). -/
def Obligations.PseudoCommandsCopyAndFlip : Prop :=
  ∀ (s : State) (d a : StoreIdx), s.Inv → InFile s.cfg d → InFile s.cfg a →
    (∃ t, exec (expand (.bmov d a)) s = .next t ∧ WroteStore s t d ⟨.ok, 0⟩ ∧ t.store d = s.store a) ∧
    (∃ t, exec (expand (.bflip d)) s = .next t ∧ WroteStore s t d ⟨.ok, 0⟩ ∧
      ∀ p < s.cfg.bsN, cell (t.store d) p = !cell (s.store d) p)

/-! ### The step (`spec/20_memory.md`, `spec/60_exceptions.md`, `spec/70_reset_and_hazards.md`) -/

/-- In a legal, reset block the next request is taken from the stream and, if it decodes, its command is executed (R48,
R66 step 4). -/
def Obligations.StepRunsDecodedCommand : Prop :=
  ∀ (s : State) (r : Request) (rest : List Input) (i : Instr),
    s.Ready → s.inputs = .command r :: rest → decode r = some i →
    step s = exec i { s with inputs := rest }

/-- A request whose word no row selects is answered with IllegalCommand and changes nothing (R67). -/
def Obligations.IllegalWordRejected : Prop :=
  ∀ (s : State) (r : Request) (rest : List Input),
    s.Ready → s.inputs = .command r :: rest → (∀ o, ¬ Selects o r.cmd) →
    ∃ t, step s = .next t ∧ OnlyAnswered { s with inputs := rest } t ⟨.err .illegalCommand, 0⟩

/-- The invariant holds in the reset state of every legal configuration, the model's own among them; every cell and `size`
are 0 (R34). That `State.reset` carries REF is the model's choice (assumption log 1). -/
def Obligations.ResetMeetsInvariant : Prop :=
  State.reset.Inv ∧
  ∀ c : Params, c.Legal →
    (State.resetFor c).Inv ∧ (State.resetFor c).Ready ∧ (State.resetFor c).size = 0 ∧
    (∀ p < c.nv, cell (State.resetFor c).v p = false) ∧
    ∀ (k : StoreIdx), InFile c k → ∀ p < c.bsN, cell ((State.resetFor c).store k) p = false

/-- Every step keeps the invariant: legal configuration, store sizes, `size ≤ MAX_SIZE` (R20, R21, R26, R29 (a)). -/
def Obligations.StepKeepsInvariant : Prop :=
  ∀ s t : State, s.Inv → step s = .next t → t.Inv

/-- Every command, in every state, completes with a next state and exactly one response (R48, R60); no V-command writes a
store of the file, and no other command writes `V` or `size` (R22, R23, R28). -/
def Obligations.EveryCommandAnswersOnce : Prop :=
  ∀ (i : Instr) (s : State), ∃ t a, exec i s = .next t ∧ Answered s t a ∧
    (isVector i.opcode = true → FileKept s t) ∧ (isVector i.opcode = false → VectorKept s t)

/-- What happens on an error, completely: the response, `res = 0`, and no state changes (R156). -/
def Obligations.ErrorChangesNothing : Prop :=
  ∀ (i : Instr) (s t : State) (e : Err) (x : Word64),
    exec i s = .next t → t.responses = s.responses ++ [⟨.err e, x⟩] →
    x = 0 ∧ OnlyAnswered s t ⟨.err e, 0⟩

/-- Which error a request reports, exactly: one whose condition holds (R153's table, with a word or store index that fails
decode), and of several the first in the order IllegalCommand, operand check, InvalidSample (R155). -/
def Obligations.ErrorsFollowTheTable : Prop :=
  ∀ (r : Request) (s : State) (e : Err), s.Inv →
    ((∃ t, runRequest r s = .next t ∧ t.responses = s.responses ++ [⟨.err e, 0⟩]) ↔
      (requestError s r e ∧ ∀ e', requestError s r e' → errorRank e ≤ errorRank e'))

/-- After an error the next command, whatever it is, answers and does what it would have done without the rejected one; the
rejected one itself is rejected again with the same code (R157). -/
def Obligations.RejectedCommandLeavesNoTrace : Prop :=
  ∀ (i : Instr) (s t : State) (e : Err) (x : Word64),
    exec i s = .next t → t.responses = s.responses ++ [⟨.err e, x⟩] →
    (∃ u, exec i t = .next u ∧ OnlyAnswered t u ⟨.err e, 0⟩) ∧
    ∀ j : Instr, ∃ u u' a, exec j s = .next u ∧ exec j t = .next u' ∧ Answered s u a ∧ Answered t u' a ∧
      FileKept u u' ∧ VectorKept u u'

/-- Where a result stands in `res`, for every command and every state: a boolean in bit 0, a sample in the low half, 0 for a
command with no result and on every error (R63). -/
def Obligations.ResultsArePlaced : Prop :=
  ∀ (i : Instr) (s : State), ∃ a, answer i s = some a ∧
    (∀ e, a.status = .err e → a.res = 0) ∧ (a.status = .ok → resultShape i.opcode a.res)

/-- The ten reading commands change no state (R47). -/
def Obligations.ReadsChangeNothing : Prop :=
  ∀ (i : Instr) (s : State), isRead i.opcode = true →
    ∃ t a, exec i s = .next t ∧ OnlyAnswered s t a

/-- Every writing command but those R47 excepts is idempotent: issued twice in a row it leaves the state of the first
issue (R47). -/
def Obligations.WritesIdempotent : Prop :=
  ∀ (i : Instr) (s t : State), s.Inv → ¬ notIdempotent i → exec i s = .next t →
    ∃ u, exec i t = .next u ∧ FileKept t u ∧ VectorKept t u

/-- `size` is written only by a successful VAPPEND, which adds exactly 1 and never passes `MAX_SIZE` (R26). -/
def Obligations.SizeOnlyGrowsByAppend : Prop :=
  ∀ (i : Instr) (s t : State), exec i s = .next t →
    t.size = s.size ∨
    (i.opcode = .vappend ∧ s.size < s.cfg.maxSize ∧ t.size = s.size + 1 ∧
      t.responses = s.responses ++ [⟨.ok, 0⟩])

/-- The outcome of a command is not retained: no later command can read it, and it influences no later command (R25). -/
def Obligations.ResponsesInfluenceNothing : Prop :=
  ∀ (i : Instr) (s : State) (l : List Response),
    ∃ t a, exec i s = .next t ∧ t.responses = s.responses ++ [a] ∧
      exec i { s with responses := l } = .next { t with responses := l ++ [a] }

/-- What the commands on the stores of the file answer and write does not depend on `V` and `size`, and what the commands on
the Sample Vector answer and write does not depend on the file (R22, R28). -/
def Obligations.FileAndVectorIsolated : Prop :=
  ∀ (i : Instr) (s s' : State), s'.cfg = s.cfg →
    (isVector i.opcode = false → s'.stores = s.stores →
      ∃ t t' a, exec i s = .next t ∧ exec i s' = .next t' ∧ Answered s t a ∧ Answered s' t' a ∧
        t'.stores = t.stores) ∧
    (isVector i.opcode = true → s'.v = s.v → s'.size = s.size →
      ∃ t t' a, exec i s = .next t ∧ exec i s' = .next t' ∧ Answered s t a ∧ Answered s' t' a ∧
        t'.v = t.v ∧ t'.size = t.size)

/-- What the slots no append has populated hold is never observable: whatever commands follow, the responses are the same
(R28, R34). -/
def Obligations.UnpopulatedSlotsUnobservable : Prop :=
  ∀ (s : State) (V : Store) (is : List Instr), s.Inv → V.length = s.v.length →
    (∀ p < s.size * s.cfg.chunkBits, cell V p = cell s.v p) →
    ∃ t t', execAll is s = .next t ∧ execAll is { s with v := V } = .next t' ∧ t'.responses = t.responses

/-- After reset and any commands, VSIZE answers the number of VAPPENDs that were answered with OK, and VGET answers OK exactly
below it (R144). -/
def Obligations.SizeCountsSuccessfulAppends : Prop :=
  ∀ (c : Params) (is : List Instr), c.Legal →
    ∃ t x, execAll is (State.resetFor c) = .next t ∧ t.size = okAppends is t.responses ∧
      answer .vsize t = some ⟨.ok, x⟩ ∧ x.toNat = okAppends is t.responses ∧
      ∀ n : Word64, (∃ y, answer (.vget n) t = some ⟨.ok, y⟩) ↔ n.toNat < t.size

/-- Reset, also with a command in flight: the reset state, and no response (R170, R171, R34). -/
def Obligations.ResetDiscardsState : Prop :=
  ∀ (s : State) (r : Request) (rest : List Input), s.cfg.Legal →
    s.inputs = .reset :: rest ∨ s.inputs = .resetInFlight r :: rest →
    ∃ t, step s = .next t ∧ t.Inv ∧ t.cfg = s.cfg ∧ t.inputs = rest ∧ t.responses = s.responses ∧
      t.wasReset = true ∧ t.size = 0 ∧ (∀ p, cell t.v p = false) ∧ ∀ k p, cell (t.store k) p = false

/-- Before the first reset a command is refused; outside R9's constraints every step is; an idle block keeps its state (R172,
R9, R161). -/
def Obligations.RefusalsAndIdle : Prop :=
  (∀ (s : State) (r : Request) (rest : List Input), s.cfg.Legal → s.wasReset = false →
    s.inputs = .command r :: rest → step s = .refused .beforeFirstReset) ∧
  (∀ s : State, ¬ s.cfg.Legal → step s = .refused .illegalConfiguration) ∧
  (∀ s : State, s.cfg.Legal → s.inputs = [] → step s = .next s)

/-! ### Construction and single-bit access (`spec/40_bitstore_access.md`) -/

/-- BZERO (R81). -/
def Obligations.BzeroClearsStore : Prop :=
  ∀ (s : State) (sd : StoreIdx), s.Inv → InFile s.cfg sd →
    ∃ t, exec (.bzero sd) s = .next t ∧ WroteStore s t sd ⟨.ok, 0⟩ ∧
      ∀ p < s.cfg.bsN, cell (t.store sd) p = false

/-- BLDU (R82). -/
def Obligations.BlduLoadsLowBits : Prop :=
  ∀ (s : State) (sd : StoreIdx) (u : Word64), s.Inv → InFile s.cfg sd →
    ∃ t, exec (.bldu sd u) s = .next t ∧ WroteStore s t sd ⟨.ok, 0⟩ ∧
      ∀ p < s.cfg.bsN, cell (t.store sd) p = if p < 64 then u.toNat.testBit p else false

/-- BGET, BTEST and BSET: below `BS_N` the one cell is read or written and nothing else; from `BS_N` on, on all 64 bits of `p`,
RangeError and no change (R80, R83, R84, R85); BGET and BTEST behave alike in every state (R86). -/
def Obligations.BitAccessAtPosition : Prop :=
  ∀ (s : State) (k : StoreIdx) (p : Word64) (v : Bool),
    (s.Inv → InFile s.cfg k → p.toNat < s.cfg.bsN →
      (∃ t, exec (.bget k p) s = .next t ∧
        OnlyAnswered s t ⟨.ok, if cell (s.store k) p.toNat = true then 1 else 0⟩) ∧
      (∃ t, exec (.btest k p) s = .next t ∧
        OnlyAnswered s t ⟨.ok, if cell (s.store k) p.toNat = true then 1 else 0⟩) ∧
      (∃ t, exec (.bset k p v) s = .next t ∧ WroteStore s t k ⟨.ok, 0⟩ ∧
        cell (t.store k) p.toNat = v ∧ ∀ q, q ≠ p.toNat → cell (t.store k) q = cell (s.store k) q)) ∧
    (InFile s.cfg k → s.cfg.bsN ≤ p.toNat →
      ∀ i ∈ [Instr.bget k p, .btest k p, .bset k p v],
        ∃ t, exec i s = .next t ∧ OnlyAnswered s t ⟨.err .rangeError, 0⟩) ∧
    exec (.bget k p) s = exec (.btest k p) s

/-! ### Reductions (`spec/41_bitstore_reduce.md`) -/

/-- BALL, BANY and BNONE: the three quantifiers over the `BS_N` cells; in terms of BCOUNT, BALL is BCOUNT = BS_N, BANY is
BCOUNT ≥ 1 and BNONE is 1 − BANY (R90, R91, R92). -/
def Obligations.BallBanyBnoneQuantify : Prop :=
  ∀ (s : State) (sa : StoreIdx), s.Inv → InFile s.cfg sa →
    ∃ (t₁ t₂ t₃ : State) (all any none count : Word64),
      exec (.ball sa) s = .next t₁ ∧ OnlyAnswered s t₁ ⟨.ok, all⟩ ∧
      exec (.bany sa) s = .next t₂ ∧ OnlyAnswered s t₂ ⟨.ok, any⟩ ∧
      exec (.bnone sa) s = .next t₃ ∧ OnlyAnswered s t₃ ⟨.ok, none⟩ ∧
      all = (if ∀ p < s.cfg.bsN, cell (s.store sa) p = true then 1 else 0) ∧
      any = (if ∃ p < s.cfg.bsN, cell (s.store sa) p = true then 1 else 0) ∧
      none = (if ∀ p < s.cfg.bsN, cell (s.store sa) p = false then 1 else 0) ∧
      answer (.bcount sa) s = some ⟨.ok, count⟩ ∧
      (all = 1 ↔ count.toNat = s.cfg.bsN) ∧ (any = 1 ↔ 1 ≤ count.toNat) ∧ none = 1 - any

/-- BCOUNT: the number of cells that are 1, never wrapped (R93). -/
def Obligations.BcountSumsCells : Prop :=
  ∀ (s : State) (sa : StoreIdx), s.Inv → InFile s.cfg sa →
    ∃ t x, exec (.bcount sa) s = .next t ∧ OnlyAnswered s t ⟨.ok, x⟩ ∧
      x.toNat = (∑ p ∈ Finset.range s.cfg.bsN, (cell (s.store sa) p).toNat) ∧ x.toNat ≤ s.cfg.bsN

/-! ### Algebra, equality, conversion (`spec/42_bitstore_algebra.md`) -/

/-- BAND, BOR and BXOR, cell by cell, whatever stores coincide (R101, R102, R103). -/
def Obligations.ValueFormsCombineCells : Prop :=
  ∀ (s : State) (sd sa sb : StoreIdx), s.Inv → InFile s.cfg sd → InFile s.cfg sa → InFile s.cfg sb →
    (∃ t, exec (.band sd sa sb) s = .next t ∧ WroteStore s t sd ⟨.ok, 0⟩ ∧
      ∀ p < s.cfg.bsN, cell (t.store sd) p = (cell (s.store sa) p && cell (s.store sb) p)) ∧
    (∃ t, exec (.bor sd sa sb) s = .next t ∧ WroteStore s t sd ⟨.ok, 0⟩ ∧
      ∀ p < s.cfg.bsN, cell (t.store sd) p = (cell (s.store sa) p || cell (s.store sb) p)) ∧
    (∃ t, exec (.bxor sd sa sb) s = .next t ∧ WroteStore s t sd ⟨.ok, 0⟩ ∧
      ∀ p < s.cfg.bsN, cell (t.store sd) p = (cell (s.store sa) p != cell (s.store sb) p))

/-- BNOT complements exactly the `BS_N` cells (R104). -/
def Obligations.BnotComplementsCells : Prop :=
  ∀ (s : State) (sd sa : StoreIdx), s.Inv → InFile s.cfg sd → InFile s.cfg sa →
    ∃ t, exec (.bnot sd sa) s = .next t ∧ WroteStore s t sd ⟨.ok, 0⟩ ∧
      ∀ p < s.cfg.bsN, cell (t.store sd) p = !cell (s.store sa) p

/-- BEQ compares the `BS_N` cells (R105). -/
def Obligations.BeqComparesCells : Prop :=
  ∀ (s : State) (sa sb : StoreIdx), s.Inv → InFile s.cfg sa → InFile s.cfg sb →
    ∃ t, exec (.beq sa sb) s = .next t ∧
      OnlyAnswered s t ⟨.ok, if ∀ p < s.cfg.bsN, cell (s.store sa) p = cell (s.store sb) p then 1 else 0⟩

/-- BANDA, BORA and BXORA, cell by cell, identical in effect to the value form with `sa = sd` (R106, R107, R108). -/
def Obligations.AssignmentFormsCombineCells : Prop :=
  ∀ (s : State) (sd sb : StoreIdx), s.Inv → InFile s.cfg sd → InFile s.cfg sb →
    (∃ t, exec (.banda sd sb) s = .next t ∧ exec (.band sd sd sb) s = .next t ∧ WroteStore s t sd ⟨.ok, 0⟩ ∧
      ∀ p < s.cfg.bsN, cell (t.store sd) p = (cell (s.store sd) p && cell (s.store sb) p)) ∧
    (∃ t, exec (.bora sd sb) s = .next t ∧ exec (.bor sd sd sb) s = .next t ∧ WroteStore s t sd ⟨.ok, 0⟩ ∧
      ∀ p < s.cfg.bsN, cell (t.store sd) p = (cell (s.store sd) p || cell (s.store sb) p)) ∧
    (∃ t, exec (.bxora sd sb) s = .next t ∧ exec (.bxor sd sd sb) s = .next t ∧ WroteStore s t sd ⟨.ok, 0⟩ ∧
      ∀ p < s.cfg.bsN, cell (t.store sd) p = (cell (s.store sd) p != cell (s.store sb) p))

/-- BTOU assembles the integer when `BS_N ≤ 64` and raises WidthError when `BS_N > 64`, in every state (R109). -/
def Obligations.BtouAssemblesInteger : Prop :=
  ∀ (s : State) (sa : StoreIdx), s.Inv → InFile s.cfg sa →
    (s.cfg.bsN ≤ 64 → ∃ t x, exec (.btou sa) s = .next t ∧ OnlyAnswered s t ⟨.ok, x⟩ ∧
      x.toNat = ∑ p ∈ Finset.range s.cfg.bsN, (cell (s.store sa) p).toNat * 2 ^ p) ∧
    (64 < s.cfg.bsN → ∃ t, exec (.btou sa) s = .next t ∧ OnlyAnswered s t ⟨.err .widthError, 0⟩)

/-- The two conversions are inverse for widths that fit (R110). -/
def Obligations.ConversionsRoundTrip : Prop :=
  ∀ (s : State) (k k' : StoreIdx) (u : Word64), s.Inv → InFile s.cfg k → InFile s.cfg k' → s.cfg.bsN ≤ 64 →
    (∃ t x, exec (.bldu k u) s = .next t ∧ answer (.btou k) t = some ⟨.ok, x⟩ ∧
      x.toNat = u.toNat % 2 ^ s.cfg.bsN) ∧
    (∃ x t, answer (.btou k) s = some ⟨.ok, x⟩ ∧ exec (.bldu k' x) s = .next t ∧
      answer (.beq k' k) t = some ⟨.ok, 1⟩)

/-- Boolean laws through the commands: BFLIP twice and BXORA twice restore the store, BXOR of a store with itself clears, and
BCOUNT(NOT a) = BS_N − BCOUNT(a) (R111, R108). -/
def Obligations.BooleanLaws : Prop :=
  ∀ (s : State) (d a : StoreIdx), s.Inv → InFile s.cfg d → InFile s.cfg a →
    (∃ t, execAll [.bnot d d, .bnot d d] s = .next t ∧ t.stores = s.stores) ∧
    (d ≠ a → ∃ t, execAll [.bxora d a, .bxora d a] s = .next t ∧ t.stores = s.stores) ∧
    (∃ t, exec (.bxor d a a) s = .next t ∧ ∀ p < s.cfg.bsN, cell (t.store d) p = false) ∧
    (∃ t x y, answer (.bcount a) s = some ⟨.ok, x⟩ ∧ exec (.bnot d a) s = .next t ∧
      answer (.bcount d) t = some ⟨.ok, y⟩ ∧ y.toNat = s.cfg.bsN - x.toNat)

/-! ### Storage layout (`spec/20_memory.md`, `spec/00_scope.md`) -/

/-- Cell `p` is bit `p mod 8` of byte `p div 8`; padding bits are 0; and the image read as one little-endian integer is the
store's integer (R40, R41, R42, R43). -/
def Obligations.ByteImageIsLittleEndian : Prop :=
  ∀ X : Store,
    (byteImage X).length = (X.length + 7) / 8 ∧
    (∀ b < (byteImage X).length, ∀ k < 8, ((byteImage X).getD b 0).getLsbD k = cell X (8 * b + k)) ∧
    (∑ b ∈ Finset.range (byteImage X).length, ((byteImage X).getD b 0).toNat * 256 ^ b) =
      ∑ p ∈ Finset.range X.length, (cell X p).toNat * 2 ^ p

/-- BSET is the reference software's mask-merge on the byte of the cell, and leaves every other byte alone (R46). -/
def Obligations.BsetIsMaskMerge : Prop :=
  ∀ (X : Store) (p : Nat) (v : Bool), p < X.length →
    byteOf (setCell X p v) (p / 8) = maskMerge (byteOf X (p / 8)) v (p % 8) ∧
    ∀ b, b ≠ p / 8 → byteOf (setCell X p v) b = byteOf X b

/-- FieldRead is its sum, FieldWrite writes the bits of `u` at `b … b+w−1` and no other cell (R13). -/
def Obligations.FieldPrimitives : Prop :=
  ∀ (X : Store) (b w u : Nat), b + w ≤ X.length → u < 2 ^ w →
    fieldRead X b w = fieldSum X b w ∧
    (fieldWrite X b w u).length = X.length ∧
    (∀ j < w, cell (fieldWrite X b w u) (b + j) = u.testBit j) ∧
    (∀ p, (p < b ∨ b + w ≤ p) → cell (fieldWrite X b w u) p = cell X p)

/-! ### The codec (`spec/43_fixed_point_codec.md`) -/

/-- The single-integer quantizer the machine runs is encode steps 1 to 5 on exact rationals, for every word and every
configuration (R122, R123, R138). -/
def Obligations.QuantizerIsExact : Prop :=
  ∀ (c : Params) (w : Word32), quantize c w = quantizeExact c w

/-- `Quantize` is defined for every word but a NaN, and its fields always fit (R124, R125). -/
def Obligations.QuantizedFieldsFit : Prop :=
  ∀ (c : Params) (w : Word32),
    (quantize c w = none ↔ classOf w = .nan) ∧
    ∀ z, quantize c w = some z → z.neg = negOf w ∧ z.i < 2 ^ c.integralBits ∧ z.d < 2 ^ c.decimalBits

/-- `EncodeChunk`, for every word but a NaN: the fields of chunk `n` at R126's positions, every cell of the chunk and no other,
whatever the chunk held (R126, R127). -/
def Obligations.EncodeWritesItsChunk : Prop :=
  ∀ (c : Params) (V : Store) (n : Nat) (w : Word32),
    V.length = c.nv → n < c.maxSize → classOf w ≠ .nan →
    ∃ z W, quantize c w = some z ∧ encodeChunk c V n w = some W ∧ ChunkHolds c W n z ∧ OtherChunksKept c V W n

/-- `F32` is exact: the word's value is `±q/2^D`, and its sign bit is the stored sign (R129). -/
def Obligations.DecodedWordIsExact : Prop :=
  ∀ (neg : Bool) (q D : Nat), q < 2 ^ 24 → D ≤ 24 →
    signBitOf (f32 neg q D) = neg ∧
    valueOf (f32 neg q D) = some (if neg then -((q : ℚ) / 2 ^ D) else (q : ℚ) / 2 ^ D)

/-- Decode is total: every contents of every chunk decodes to a zero or finite word of magnitude at most `MAX_MAGNITUDE`
(R130, R29 (b)), and with `SIGN_BIT = 0` to a word with bit 31 clear (R135). -/
def Obligations.DecodeIsTotal : Prop :=
  ∀ (c : Params) (V : Store) (n : Nat), c.Legal →
    (classOf (decodeChunk c V n) = .zero ∨ classOf (decodeChunk c V n) = .finite) ∧
    (∃ m : ℚ, magnitudeOf (decodeChunk c V n) = some (.finite m) ∧ 0 ≤ m ∧ m ≤ c.maxMagnitude) ∧
    (c.signBit = false → signBitOf (decodeChunk c V n) = false)

/-- A word exactly representable in the configuration comes back as it is, but negative zero as zero (R131). -/
def Obligations.RepresentableWordsRoundTrip : Prop :=
  ∀ (c : Params) (V : Store) (n : Nat) (w : Word32) (m : ℚ) (k : Nat),
    c.Legal → V.length = c.nv → n < c.maxSize →
    magnitudeOf w = some (.finite m) → m ≤ c.maxMagnitude → m * 2 ^ c.decimalBits = k →
    (c.signBit = true ∨ signBitOf w = false) →
    ∃ W, encodeChunk c V n w = some W ∧ decodeChunk c W n = if w = 0x80000000 then 0 else w

/-- Every magnitude above `MAX_MAGNITUDE`, infinity too, saturates: both fields all ones, the sign kept, the decoded magnitude
is `MAX_MAGNITUDE`, and the decoded value is that of encoding `MAX_MAGNITUDE` with the same sign (R132). -/
def Obligations.OverflowSaturates : Prop :=
  ∀ (c : Params) (V : Store) (n : Nat) (w : Word32),
    c.Legal → V.length = c.nv → n < c.maxSize →
    (classOf w = .inf ∨ ∃ m : ℚ, magnitudeOf w = some (.finite m) ∧ c.maxMagnitude < m) →
    quantize c w = some ⟨signBitOf w, 2 ^ c.integralBits - 1, 2 ^ c.decimalBits - 1⟩ ∧
    ∃ W, encodeChunk c V n w = some W ∧
      magnitudeOf (decodeChunk c W n) = some (.finite c.maxMagnitude) ∧
      signBitOf (decodeChunk c W n) = (c.signBit && signBitOf w) ∧
      ∀ (w' : Word32) (W' : Store), magnitudeOf w' = some (.finite c.maxMagnitude) → signBitOf w' = signBitOf w →
        encodeChunk c V n w' = some W' → valueOf (decodeChunk c W' n) = valueOf (decodeChunk c W n)

/-- Truncation, not rounding: the decoded magnitude is never larger than the input's and misses it by less than one
resolution step (R133). -/
def Obligations.TruncationBound : Prop :=
  ∀ (c : Params) (V W : Store) (n : Nat) (w : Word32) (m : ℚ),
    c.Legal → V.length = c.nv → n < c.maxSize →
    magnitudeOf w = some (.finite m) → m ≤ c.maxMagnitude → encodeChunk c V n w = some W →
    ∃ m' : ℚ, magnitudeOf (decodeChunk c W n) = some (.finite m') ∧ m' = ⌊m * 2 ^ c.decimalBits⌋ / 2 ^ c.decimalBits ∧
      0 ≤ m - m' ∧ m - m' < 1 / 2 ^ c.decimalBits

/-- Flipping the sign of a finite or infinite word flips the stored sign and nothing else; with `SIGN_BIT = 1` it flips bit 31
of the decoded word and nothing else, with `SIGN_BIT = 0` it changes nothing (R134, R135). -/
def Obligations.SignIsIndependent : Prop :=
  ∀ (c : Params) (V : Store) (n : Nat) (w : Word32),
    c.Legal → V.length = c.nv → n < c.maxSize → (classOf w = .finite ∨ classOf w = .inf) →
    ∃ z W W', quantize c w = some z ∧ quantize c (w ^^^ 0x80000000) = some { z with neg := !z.neg } ∧
      encodeChunk c V n w = some W ∧ encodeChunk c V n (w ^^^ 0x80000000) = some W' ∧
      decodeChunk c W' n = decodeChunk c W n ^^^ (if c.signBit then 0x80000000 else 0)

/-- Re-encoding a decoded value leaves the chunk as it is, except that a stored negative zero loses its sign cell (R139). -/
def Obligations.ReencodeKeepsChunk : Prop :=
  ∀ (c : Params) (V : Store) (n : Nat), c.Legal → V.length = c.nv → n < c.maxSize →
    encodeChunk c V n (decodeChunk c V n) =
      some (if decodeChunk c V n = 0x80000000 then setCell V (n * c.chunkBits) false else V)

/-! ### The Sample Vector (`spec/44_sample_vector.md`) -/

/-- VAPPEND (R140): on a full vector CapacityError, whatever the sample; then InvalidSample for a NaN; otherwise chunk `size`
holds the quantized sample, no other cell changes, and `size` grows by one. -/
def Obligations.VappendWritesNextChunk : Prop :=
  ∀ (s : State) (w : Word32),
    (s.cfg.maxSize ≤ s.size → ∃ t, exec (.vappend w) s = .next t ∧ OnlyAnswered s t ⟨.err .capacityError, 0⟩) ∧
    (s.size < s.cfg.maxSize → classOf w = .nan →
      ∃ t, exec (.vappend w) s = .next t ∧ OnlyAnswered s t ⟨.err .invalidSample, 0⟩) ∧
    (s.Inv → s.size < s.cfg.maxSize → classOf w ≠ .nan →
      ∃ t z, exec (.vappend w) s = .next t ∧ quantize s.cfg w = some z ∧ Answered s t ⟨.ok, 0⟩ ∧ FileKept s t ∧
        t.size = s.size + 1 ∧ ChunkHolds s.cfg t.v s.size z ∧ OtherChunksKept s.cfg s.v t.v s.size)

/-- VGET (R141): from `size` on, on all 64 bits of `n`, BoundsError; below it the word of the stored sign and the stored
fields, in `res[31:0]` (R128). -/
def Obligations.VgetDecodesEntry : Prop :=
  ∀ (s : State) (n : Word64),
    (s.size ≤ n.toNat → ∃ t, exec (.vget n) s = .next t ∧ OnlyAnswered s t ⟨.err .boundsError, 0⟩) ∧
    (s.Inv → n.toNat < s.size →
      ∃ t x, exec (.vget n) s = .next t ∧ OnlyAnswered s t ⟨.ok, x⟩ ∧
        x = (f32 (s.cfg.signBit && cell s.v (n.toNat * s.cfg.chunkBits))
          (fieldSum s.v (n.toNat * s.cfg.chunkBits + s.cfg.signWidth) s.cfg.integralBits * 2 ^ s.cfg.decimalBits +
            fieldSum s.v (n.toNat * s.cfg.chunkBits + s.cfg.signWidth + s.cfg.integralBits) s.cfg.decimalBits)
          s.cfg.decimalBits).zeroExtend 64)

/-- VSET (R142): from `size` on, on all 64 bits of `n`, BoundsError, whatever the sample; then InvalidSample for a NaN;
otherwise chunk `n` holds the quantized sample, no other cell changes, nor does `size`. -/
def Obligations.VsetRewritesEntry : Prop :=
  ∀ (s : State) (n : Word64) (w : Word32),
    (s.size ≤ n.toNat → ∃ t, exec (.vset n w) s = .next t ∧ OnlyAnswered s t ⟨.err .boundsError, 0⟩) ∧
    (n.toNat < s.size → classOf w = .nan →
      ∃ t, exec (.vset n w) s = .next t ∧ OnlyAnswered s t ⟨.err .invalidSample, 0⟩) ∧
    (s.Inv → n.toNat < s.size → classOf w ≠ .nan →
      ∃ t z, exec (.vset n w) s = .next t ∧ quantize s.cfg w = some z ∧ Answered s t ⟨.ok, 0⟩ ∧ FileKept s t ∧
        t.size = s.size ∧ ChunkHolds s.cfg t.v n.toNat z ∧ OtherChunksKept s.cfg s.v t.v n.toNat)

/-- VSIZE answers `size` (R143). -/
def Obligations.VsizeAnswersSize : Prop :=
  ∀ s : State, s.Inv →
    ∃ t x, exec .vsize s = .next t ∧ OnlyAnswered s t ⟨.ok, x⟩ ∧ x.toNat = s.size

/-- After a successful VAPPEND or VSET of `w` at entry `n`, and any commands but a successful VSET of entry `n`, VGET of that
entry answers `F32` of the quantized sample (R145). -/
def Obligations.EntryHoldsQuantizedSample : Prop :=
  ∀ (s t : State) (n : Word64) (w : Word32) (z : Quantized) (is : List Instr), s.Inv → quantize s.cfg w = some z →
    (n.toNat = s.size ∧ s.size < s.cfg.maxSize ∧ exec (.vappend w) s = .next t) ∨
      (n.toNat < s.size ∧ exec (.vset n w) s = .next t) →
    (∀ w', .vset n w' ∈ is → classOf w' = .nan) →
    ∃ u, execAll is t = .next u ∧ answer (.vget n) u =
      some ⟨.ok, (f32 (s.cfg.signBit && z.neg) (z.i * 2 ^ s.cfg.decimalBits + z.d) s.cfg.decimalBits).zeroExtend 64⟩

/-- No command but a VSET of entry `n` changes what VGET of entry `n` answers (R145, R142). -/
def Obligations.OtherCommandsKeepEntry : Prop :=
  ∀ (s t : State) (i : Instr) (n : Word64), s.Inv → n.toNat < s.size →
    (∀ k w, i = .vset k w → k ≠ n) → exec i s = .next t →
    answer (.vget n) t = answer (.vget n) s

/-! ### The ports (`spec/30_encoding.md` rule R60, `spec/70_reset_and_hazards.md`) -/

/-- One transaction on the ports, from the edge at which the block accepts the request, however long the block takes to
present the response and the host to take it, is one step of the model: the same next state, the same one response (R60,
R178). That acceptance and presentation are inputs of an edge, and that a response is transferred after the edge of its
request, is the model's choice (assumption log 7). -/
def Obligations.TransactionIsOneStep : Prop :=
  ∀ (s t : State) (r : Request) (e : Pins) (xs : List Pins) (e' : Pins),
    s.Ready → step { s with inputs := .command r :: s.inputs } = .next t →
    Port.edges ⟨.idle, s⟩ (transaction r e xs e') = .next ⟨.idle, t⟩

/-- `rst = 1` at an edge, wherever the transaction stands: the reset state, no response for a command in flight, and the block
is idle after the first edge with `rst = 0` (R170, R171). -/
def Obligations.ResetEdgeAbandonsCommand : Prop :=
  ∀ (p : Port) (e e' : Pins), p.core.cfg.Legal → e.rst = true → e'.rst = false →
    Port.edges p [e, e'] =
      .next ⟨.idle, { State.resetFor p.core.cfg with inputs := p.core.inputs, responses := p.core.responses }⟩

/-- The block drives `req_ready` exactly when no command is in flight, `rst = 0` and it accepts; it drives a response exactly
when a command is in flight, `rst = 0` and it presents, and then the code R150 gives the status (all seven) and the result
(R60, R170). At an edge with `rst = 0` a request is transferred exactly when `req_valid` and `req_ready` are 1, a
response exactly when it is driven and `resp_ready` is 1, and at every other such edge of a block that is out of reset
nothing changes. That acceptance and presentation are inputs of an edge is the model's choice (assumption log 7). -/
def Obligations.OneCommandInFlight : Prop :=
  (∀ (p : Port) (e : Pins),
    ((p.outputs e).reqReady = true ↔ p.phase = .idle ∧ e.rst = false ∧ e.accept = true) ∧
    (∀ a x, (p.outputs e).response = some (a, x) ↔
      e.rst = false ∧ e.present = true ∧ ∃ y : Response, p.phase = .inFlight y ∧ a = y.status.code ∧ x = y.res) ∧
    (e.rst = false → p.core.Ready → (p.outputs e).reqReady = true → e.reqValid = true →
      ∃ y t, p.edge e = .next ⟨.inFlight y, t⟩ ∧ t.responses = p.core.responses ∧
        runRequest e.request p.core = .next (t.respond y)) ∧
    (∀ y, p.phase = .inFlight y → (p.outputs e).response.isSome = true → e.respReady = true →
      p.edge e = .next ⟨.idle, p.core.respond y⟩) ∧
    (e.rst = false → p.phase ≠ .held → ¬ ((p.outputs e).reqReady = true ∧ e.reqValid = true) →
      ¬ ((p.outputs e).response.isSome = true ∧ e.respReady = true) → p.edge e = .next p)) ∧
  Status.ok.code = 0 ∧ (Status.err .illegalCommand).code = 1 ∧ (Status.err .rangeError).code = 2 ∧
  (Status.err .capacityError).code = 3 ∧ (Status.err .boundsError).code = 4 ∧ (Status.err .widthError).code = 5 ∧
  (Status.err .invalidSample).code = 6
end

