-- ==== Sys2Proof/Laws/Assembler.lean ====
section
/-! SUPPORT. What rounding and the integer logarithm of the decimal conversion do: a proof about `binary32OfDecimal` cites
these and does not unfold them. -/

namespace Sys2Proof.Machine

/-- The rounded integer is within one half, and even where it is exactly one half away. -/
theorem roundHalfEven_spec (y : ℚ) :
    |(roundHalfEven y : ℚ) - y| ≤ 1 / 2 ∧ (|(roundHalfEven y : ℚ) - y| = 1 / 2 → roundHalfEven y % 2 = 0) := by
  have h1 := Int.floor_le y
  have h2 := Int.lt_floor_add_one y
  unfold roundHalfEven
  dsimp only
  split_ifs with hlt hgt heven
  · rw [abs_of_nonpos (by linarith)]
    exact ⟨by linarith, fun h => by linarith⟩
  · push_cast
    rw [abs_of_nonneg (by linarith)]
    exact ⟨by linarith, fun h => by linarith⟩
  · rw [abs_of_nonpos (by linarith)]
    exact ⟨by linarith, fun _ => heven⟩
  · push_cast
    rw [abs_of_nonneg (by linarith)]
    exact ⟨by linarith, fun _ => by omega⟩

/-- The exponent brackets the quotient between two powers of two. -/
theorem floorLog2_spec {m d : Nat} (hm : m ≠ 0) (hd : d ≠ 0) :
    (2 : ℚ) ^ floorLog2 m d ≤ (m : ℚ) / d ∧ (m : ℚ) / d < 2 ^ (floorLog2 m d + 1) := by
  have hd0 : (0 : ℚ) < d := by exact_mod_cast Nat.pos_of_ne_zero hd
  have m1 : (2 : ℚ) ^ m.log2 ≤ m := by exact_mod_cast Nat.log2_self_le hm
  have m2 : (m : ℚ) < 2 ^ (m.log2 + 1) := by exact_mod_cast Nat.lt_log2_self
  have d1 : (2 : ℚ) ^ d.log2 ≤ d := by exact_mod_cast Nat.log2_self_le hd
  have d2 : (d : ℚ) < 2 ^ (d.log2 + 1) := by exact_mod_cast Nat.lt_log2_self
  have two : (2 : ℚ) ≠ 0 := by norm_num
  have upper : (m : ℚ) / d < 2 ^ ((m.log2 : Int) - d.log2 + 1) := by
    rw [div_lt_iff₀ hd0]
    calc (m : ℚ) < 2 ^ (m.log2 + 1) := m2
      _ = 2 ^ ((m.log2 : Int) - d.log2 + 1) * 2 ^ d.log2 := by
        rw [← zpow_natCast 2 d.log2, ← zpow_add₀ two, ← zpow_natCast]
        congr 1
        push_cast
        ring
      _ ≤ _ := by gcongr
  have lower : (2 : ℚ) ^ ((m.log2 : Int) - d.log2 - 1) ≤ (m : ℚ) / d := by
    rw [le_div_iff₀ hd0]
    calc (2 : ℚ) ^ ((m.log2 : Int) - d.log2 - 1) * d
        ≤ 2 ^ ((m.log2 : Int) - d.log2 - 1) * 2 ^ (d.log2 + 1) := by gcongr
      _ = 2 ^ m.log2 := by
        rw [← zpow_natCast 2 (d.log2 + 1), ← zpow_add₀ two, ← zpow_natCast]
        congr 1
        push_cast
        ring
      _ ≤ m := m1
  unfold floorLog2
  dsimp only
  split_ifs with h
  · exact ⟨lower, by simpa using h⟩
  · exact ⟨not_lt.mp h, upper⟩

end Sys2Proof.Machine
end

