-- ==== Sys2Proof/Laws/PerInstr.lean ====
section
/-! SUPPORT. A fact about every command as syntax, one lemma per constructor: the opcode byte of its encoding is the one of its
row, and that byte finds the row again. -/

namespace Sys2Proof.Laws.EncodesOpcode

/-- The command word of `i` carries the opcode of `i`'s row, and only that row has it (R64, R66 step 1). -/
def Statement (i : Instr) : Prop :=
  opField (encode i).cmd = i.opcode.byte ∧ Opcode.ofByte i.opcode.byte = some i.opcode

/-- The low byte of a command word is its opcode (R61). -/
theorem opField_commandWord (o : Opcode) (sd sa sb : StoreIdx) (v : Bool) :
    opField (commandWord o sd sa sb v) = o.byte := by
  apply BitVec.eq_of_getLsbD_eq
  intro k hk
  simp only [opField, commandWord, BitVec.getLsbD_extractLsb', BitVec.getLsbD_append, Nat.zero_add, hk,
    decide_true, Bool.true_and, if_true]

/-- Each opcode byte finds its own row (R66 step 1). -/
theorem ofByte_byte (o : Opcode) : Opcode.ofByte o.byte = some o := by
  cases o <;> rfl

theorem bzero (sd : StoreIdx) : Statement (.bzero sd) := ⟨opField_commandWord .., ofByte_byte _⟩
theorem bldu (sd : StoreIdx) (u : Word64) : Statement (.bldu sd u) := ⟨opField_commandWord .., ofByte_byte _⟩
theorem bget (sa : StoreIdx) (p : Word64) : Statement (.bget sa p) := ⟨opField_commandWord .., ofByte_byte _⟩
theorem bset (sd : StoreIdx) (p : Word64) (v : Bool) : Statement (.bset sd p v) :=
  ⟨opField_commandWord .., ofByte_byte _⟩
theorem btest (sa : StoreIdx) (p : Word64) : Statement (.btest sa p) := ⟨opField_commandWord .., ofByte_byte _⟩
theorem ball (sa : StoreIdx) : Statement (.ball sa) := ⟨opField_commandWord .., ofByte_byte _⟩
theorem bany (sa : StoreIdx) : Statement (.bany sa) := ⟨opField_commandWord .., ofByte_byte _⟩
theorem bnone (sa : StoreIdx) : Statement (.bnone sa) := ⟨opField_commandWord .., ofByte_byte _⟩
theorem bcount (sa : StoreIdx) : Statement (.bcount sa) := ⟨opField_commandWord .., ofByte_byte _⟩
theorem band (sd sa sb : StoreIdx) : Statement (.band sd sa sb) := ⟨opField_commandWord .., ofByte_byte _⟩
theorem bor (sd sa sb : StoreIdx) : Statement (.bor sd sa sb) := ⟨opField_commandWord .., ofByte_byte _⟩
theorem bxor (sd sa sb : StoreIdx) : Statement (.bxor sd sa sb) := ⟨opField_commandWord .., ofByte_byte _⟩
theorem bnot (sd sa : StoreIdx) : Statement (.bnot sd sa) := ⟨opField_commandWord .., ofByte_byte _⟩
theorem beq (sa sb : StoreIdx) : Statement (.beq sa sb) := ⟨opField_commandWord .., ofByte_byte _⟩
theorem banda (sd sb : StoreIdx) : Statement (.banda sd sb) := ⟨opField_commandWord .., ofByte_byte _⟩
theorem bora (sd sb : StoreIdx) : Statement (.bora sd sb) := ⟨opField_commandWord .., ofByte_byte _⟩
theorem bxora (sd sb : StoreIdx) : Statement (.bxora sd sb) := ⟨opField_commandWord .., ofByte_byte _⟩
theorem btou (sa : StoreIdx) : Statement (.btou sa) := ⟨opField_commandWord .., ofByte_byte _⟩
theorem vappend (w : Word32) : Statement (.vappend w) := ⟨opField_commandWord .., ofByte_byte _⟩
theorem vget (n : Word64) : Statement (.vget n) := ⟨opField_commandWord .., ofByte_byte _⟩
theorem vset (n : Word64) (w : Word32) : Statement (.vset n w) := ⟨opField_commandWord .., ofByte_byte _⟩
theorem vsize : Statement .vsize := ⟨opField_commandWord .., ofByte_byte _⟩

end Sys2Proof.Laws.EncodesOpcode
end

