-- ==== Sys2Proof/Laws/Decode.lean ====
section
/-! SUPPORT. What the decoder and the fields of a command word can do: a proof cites these and does not unfold `decode`. -/

namespace Sys2Proof

/-! ### The fields of a command word that was put together -/

theorem sdField_commandWord (o : Opcode) (sd sa sb : StoreIdx) (v : Bool) :
    sdField (commandWord o sd sa sb v) = sd := by
  apply BitVec.eq_of_getLsbD_eq
  intro k hk
  simp only [sdField, commandWord, BitVec.getLsbD_extractLsb', BitVec.getLsbD_append, hk, decide_true, Bool.true_and]
  rw [if_neg (by omega), if_pos (by omega)]
  congr 1
  omega

theorem saField_commandWord (o : Opcode) (sd sa sb : StoreIdx) (v : Bool) :
    saField (commandWord o sd sa sb v) = sa := by
  apply BitVec.eq_of_getLsbD_eq
  intro k hk
  simp only [saField, commandWord, BitVec.getLsbD_extractLsb', BitVec.getLsbD_append, hk, decide_true, Bool.true_and]
  rw [if_neg (by omega), if_neg (by omega), if_pos (by omega)]
  congr 1
  omega

theorem sbField_commandWord (o : Opcode) (sd sa sb : StoreIdx) (v : Bool) :
    sbField (commandWord o sd sa sb v) = sb := by
  apply BitVec.eq_of_getLsbD_eq
  intro k hk
  simp only [sbField, commandWord, BitVec.getLsbD_extractLsb', BitVec.getLsbD_append, hk, decide_true, Bool.true_and]
  rw [if_neg (by omega), if_neg (by omega), if_neg (by omega), if_pos (by omega)]
  congr 1
  omega

theorem vField_commandWord (o : Opcode) (sd sa sb : StoreIdx) (v : Bool) :
    vField (commandWord o sd sa sb v) = v := by
  simp only [vField, commandWord, BitVec.getLsbD_append]
  rw [if_neg (by omega), if_neg (by omega), if_neg (by omega), if_neg (by omega), if_pos (by omega)]
  simp

/-! ### Decoding -/

theorem byte_of_ofByte {b : BitVec 8} {o : Opcode} (h : Opcode.ofByte b = some o) : o.byte = b := by
  simpa using List.find?_some h

theorem opcode_operands (o : Opcode) (r : Request) : (o.operands r).opcode = o := by
  cases o <;> rfl

/-- A word with a row's opcode that passes the row's mask decodes to the row's command. -/
theorem decode_of_row {r : Request} {o : Opcode} (hb : opField r.cmd = o.byte)
    (hm : r.cmd &&& o.format.mask = o.pattern) : decode r = some (o.operands r) := by
  unfold decode
  rw [hb, Laws.EncodesOpcode.ofByte_byte]
  exact if_pos hm

/-- What a request that decodes is: a word with a row's opcode that passes the row's mask. -/
theorem row_of_decode {r : Request} {i : Instr} (h : decode r = some i) :
    ∃ o : Opcode, opField r.cmd = o.byte ∧ r.cmd &&& o.format.mask = o.pattern ∧ i = o.operands r := by
  unfold decode at h
  split at h
  · cases h
  · rename_i o ho
    split at h
    · exact ⟨o, (byte_of_ofByte ho).symm, ‹_›, by simpa using h.symm⟩
    · cases h

end Sys2Proof
end

