-- ==== Sys2Proof/Laws/State.lean ====
section
/-! SUPPORT. One lemma per field per update of the state, each true by rfl: a proof rewrites with these and unfolds no record
update. -/

namespace Sys2Proof.Machine

@[simp] theorem State.respond_cfg (s : State) (r : Response) : (s.respond r).cfg = s.cfg := rfl
@[simp] theorem State.respond_stores (s : State) (r : Response) : (s.respond r).stores = s.stores := rfl
@[simp] theorem State.respond_v (s : State) (r : Response) : (s.respond r).v = s.v := rfl
@[simp] theorem State.respond_size (s : State) (r : Response) : (s.respond r).size = s.size := rfl
@[simp] theorem State.respond_wasReset (s : State) (r : Response) : (s.respond r).wasReset = s.wasReset := rfl
@[simp] theorem State.respond_inputs (s : State) (r : Response) : (s.respond r).inputs = s.inputs := rfl
@[simp] theorem State.respond_responses (s : State) (r : Response) : (s.respond r).responses = s.responses ++ [r] := rfl
@[simp] theorem State.respond_store (s : State) (r : Response) (k : StoreIdx) : (s.respond r).store k = s.store k := rfl

@[simp] theorem State.setStore_cfg (s : State) (k : StoreIdx) (X : Store) : (s.setStore k X).cfg = s.cfg := rfl
@[simp] theorem State.setStore_stores (s : State) (k : StoreIdx) (X : Store) :
    (s.setStore k X).stores = s.stores.set k.toNat X := rfl
@[simp] theorem State.setStore_v (s : State) (k : StoreIdx) (X : Store) : (s.setStore k X).v = s.v := rfl
@[simp] theorem State.setStore_size (s : State) (k : StoreIdx) (X : Store) : (s.setStore k X).size = s.size := rfl
@[simp] theorem State.setStore_wasReset (s : State) (k : StoreIdx) (X : Store) :
    (s.setStore k X).wasReset = s.wasReset := rfl
@[simp] theorem State.setStore_inputs (s : State) (k : StoreIdx) (X : Store) : (s.setStore k X).inputs = s.inputs := rfl
@[simp] theorem State.setStore_responses (s : State) (k : StoreIdx) (X : Store) :
    (s.setStore k X).responses = s.responses := rfl

@[simp] theorem State.setVector_cfg (s : State) (X : Store) : (s.setVector X).cfg = s.cfg := rfl
@[simp] theorem State.setVector_stores (s : State) (X : Store) : (s.setVector X).stores = s.stores := rfl
@[simp] theorem State.setVector_v (s : State) (X : Store) : (s.setVector X).v = X := rfl
@[simp] theorem State.setVector_size (s : State) (X : Store) : (s.setVector X).size = s.size := rfl
@[simp] theorem State.setVector_wasReset (s : State) (X : Store) : (s.setVector X).wasReset = s.wasReset := rfl
@[simp] theorem State.setVector_inputs (s : State) (X : Store) : (s.setVector X).inputs = s.inputs := rfl
@[simp] theorem State.setVector_responses (s : State) (X : Store) : (s.setVector X).responses = s.responses := rfl
@[simp] theorem State.setVector_store (s : State) (X : Store) (k : StoreIdx) : (s.setVector X).store k = s.store k := rfl

@[simp] theorem State.setSize_cfg (s : State) (n : Nat) : (s.setSize n).cfg = s.cfg := rfl
@[simp] theorem State.setSize_stores (s : State) (n : Nat) : (s.setSize n).stores = s.stores := rfl
@[simp] theorem State.setSize_v (s : State) (n : Nat) : (s.setSize n).v = s.v := rfl
@[simp] theorem State.setSize_size (s : State) (n : Nat) : (s.setSize n).size = n := rfl
@[simp] theorem State.setSize_wasReset (s : State) (n : Nat) : (s.setSize n).wasReset = s.wasReset := rfl
@[simp] theorem State.setSize_inputs (s : State) (n : Nat) : (s.setSize n).inputs = s.inputs := rfl
@[simp] theorem State.setSize_responses (s : State) (n : Nat) : (s.setSize n).responses = s.responses := rfl
@[simp] theorem State.setSize_store (s : State) (n : Nat) (k : StoreIdx) : (s.setSize n).store k = s.store k := rfl

@[simp] theorem State.takeInput_cfg (s : State) (l : List Input) : (s.takeInput l).cfg = s.cfg := rfl
@[simp] theorem State.takeInput_stores (s : State) (l : List Input) : (s.takeInput l).stores = s.stores := rfl
@[simp] theorem State.takeInput_v (s : State) (l : List Input) : (s.takeInput l).v = s.v := rfl
@[simp] theorem State.takeInput_size (s : State) (l : List Input) : (s.takeInput l).size = s.size := rfl
@[simp] theorem State.takeInput_wasReset (s : State) (l : List Input) : (s.takeInput l).wasReset = s.wasReset := rfl
@[simp] theorem State.takeInput_inputs (s : State) (l : List Input) : (s.takeInput l).inputs = l := rfl
@[simp] theorem State.takeInput_responses (s : State) (l : List Input) : (s.takeInput l).responses = s.responses := rfl
@[simp] theorem State.takeInput_store (s : State) (l : List Input) (k : StoreIdx) : (s.takeInput l).store k = s.store k := rfl

@[simp] theorem State.afterReset_cfg (s : State) (l : List Input) : (s.afterReset l).cfg = s.cfg := rfl
@[simp] theorem State.afterReset_stores (s : State) (l : List Input) :
    (s.afterReset l).stores = List.replicate s.cfg.bsCount (zeroStore s.cfg.bsN) := rfl
@[simp] theorem State.afterReset_v (s : State) (l : List Input) : (s.afterReset l).v = zeroStore s.cfg.nv := rfl
@[simp] theorem State.afterReset_size (s : State) (l : List Input) : (s.afterReset l).size = 0 := rfl
@[simp] theorem State.afterReset_wasReset (s : State) (l : List Input) : (s.afterReset l).wasReset = true := rfl
@[simp] theorem State.afterReset_inputs (s : State) (l : List Input) : (s.afterReset l).inputs = l := rfl
@[simp] theorem State.afterReset_responses (s : State) (l : List Input) : (s.afterReset l).responses = s.responses := rfl

/-- Two states that agree in every field are equal. -/
@[ext] theorem State.ext_fields {s t : State} (h1 : s.cfg = t.cfg) (h2 : s.stores = t.stores) (h3 : s.v = t.v)
    (h4 : s.size = t.size) (h5 : s.wasReset = t.wasReset) (h6 : s.inputs = t.inputs)
    (h7 : s.responses = t.responses) : s = t := by
  cases s; cases t; simp_all

end Sys2Proof.Machine
end

