-- ==== Sys2Proof/Laws/Ops.lean ====
section
/-! SUPPORT. For each shared operation, once, what it can do: a proof cites these and does not unfold the operation. -/

namespace Sys2Proof.Machine

/-! ### Cells -/

@[simp] theorem cell_nil (p : Nat) : cell [] p = false := by simp [cell]

@[simp] theorem cell_cons_zero (b : Bool) (X : Store) : cell (b :: X) 0 = b := by simp [cell]

@[simp] theorem cell_cons_succ (b : Bool) (X : Store) (p : Nat) : cell (b :: X) (p + 1) = cell X p := by simp [cell]

theorem cell_of_lt {X : Store} {p : Nat} (h : p < X.length) : cell X p = X[p] := by
  simp [cell, List.getD, h]

/-- A position outside the store reads as 0; no rule reads one. -/
theorem cell_of_le {X : Store} {p : Nat} (h : X.length ≤ p) : cell X p = false := by
  simp [cell, List.getD, h]

@[simp] theorem cell_zeroStore (n p : Nat) : cell (zeroStore n) p = false := by
  simp only [cell, zeroStore, List.getD, List.getElem?_replicate]
  split <;> rfl

@[simp] theorem length_zeroStore (n : Nat) : (zeroStore n).length = n := by simp [zeroStore]

@[simp] theorem length_setCell (X : Store) (p : Nat) (b : Bool) : (setCell X p b).length = X.length := by
  simp [setCell]

theorem cell_setCell_same {X : Store} {p : Nat} (h : p < X.length) (b : Bool) : cell (setCell X p b) p = b := by
  simp [cell, setCell, List.getD, h]

theorem cell_setCell_ne (X : Store) {p q : Nat} (h : q ≠ p) (b : Bool) : cell (setCell X p b) q = cell X q := by
  simp [cell, setCell, List.getD, List.getElem?_set_ne (Ne.symm h)]

/-- Two stores of one length with the same cells are equal. -/
theorem store_ext {X Y : Store} (hl : X.length = Y.length) (h : ∀ p < X.length, cell X p = cell Y p) : X = Y := by
  refine List.ext_getElem hl fun p h1 h2 => ?_
  have := h p h1
  rwa [cell_of_lt h1, cell_of_lt h2] at this

@[simp] theorem length_storeOfWord (n : Nat) (u : Word64) : (storeOfWord n u).length = n := by simp [storeOfWord]

theorem cell_storeOfWord {n p : Nat} (h : p < n) (u : Word64) : cell (storeOfWord n u) p = u.getLsbD p := by
  simp [cell, storeOfWord, List.getD, h]

theorem cell_zipWith {f : Bool → Bool → Bool} {X Y : Store} {p : Nat} (hX : p < X.length) (hY : p < Y.length) :
    cell (List.zipWith f X Y) p = f (cell X p) (cell Y p) := by
  rw [cell_of_lt hX, cell_of_lt hY, cell_of_lt (by simp; omega)]
  simp

theorem cell_mapNot {X : Store} {p : Nat} (h : p < X.length) : cell (X.map not) p = !cell X p := by
  rw [cell_of_lt h, cell_of_lt (by simpa using h)]
  simp

/-! ### The store file -/

theorem State.store_setStore_ne (s : State) {k d : StoreIdx} (h : k ≠ d) (X : Store) :
    (s.setStore d X).store k = s.store k := by
  have : d.toNat ≠ k.toNat := fun e => h (BitVec.eq_of_toNat_eq e.symm)
  simp [State.store, List.getD, List.getElem?_set_ne this]

theorem State.store_setStore_same (s : State) {d : StoreIdx} (h : d.toNat < s.stores.length) (X : Store) :
    (s.setStore d X).store d = X := by
  simp [State.store, List.getD, h]

/-- A store of the file is one of the stores the invariant speaks of. -/
theorem State.store_mem (s : State) {k : StoreIdx} (h : k.toNat < s.stores.length) : s.store k ∈ s.stores := by
  simp [State.store, List.getD, h]

/-! ### The ends of a command and its checks -/

/-- `done` answers a next state, always: OK, the result, and nothing else. -/
theorem done_eq (r : Word64) (s : State) : done r s = .next (s.respond ⟨.ok, r⟩) := rfl

/-- `raise` answers a next state, always: the error, `res = 0`, and nothing else. -/
theorem raise_eq (e : Err) (s : State) : raise e s = .next (s.respond ⟨.err e, 0⟩) := rfl

theorem legalStores_of_inFile {ks : List StoreIdx} {s : State} (h : ∀ k ∈ ks, InFile s.cfg k) (body : Result) :
    legalStores ks s body = body := by
  unfold legalStores
  rw [if_pos h]

theorem legalStores_outside {ks : List StoreIdx} {s : State} {k : StoreIdx} (hk : k ∈ ks)
    (h : s.cfg.bsCount ≤ k.toNat) (body : Result) :
    legalStores ks s body = raise .illegalCommand s := by
  unfold legalStores
  rw [if_neg fun hall => absurd (hall k hk) (Nat.not_lt.mpr h)]

/-- What a command with store operands can do: go on, or answer IllegalCommand. -/
theorem legalStores_cases (ks : List StoreIdx) (s : State) (body : Result) :
    ((∀ k ∈ ks, InFile s.cfg k) ∧ legalStores ks s body = body) ∨
      ((∃ k ∈ ks, s.cfg.bsCount ≤ k.toNat) ∧ legalStores ks s body = raise .illegalCommand s) := by
  by_cases h : ∀ k ∈ ks, InFile s.cfg k
  · exact .inl ⟨h, legalStores_of_inFile h body⟩
  · push Not at h
    obtain ⟨k, hk, hlt⟩ := h
    exact .inr ⟨⟨k, hk, hlt⟩, legalStores_outside hk hlt body⟩

/-- What a command with a position can do: go on with it, or answer RangeError. -/
theorem atPosition_cases (p : Word64) (s : State) (body : Nat → Result) :
    (p.toNat < s.cfg.bsN ∧ atPosition p s body = body p.toNat) ∨
      (s.cfg.bsN ≤ p.toNat ∧ atPosition p s body = raise .rangeError s) := by
  by_cases h : p.toNat < s.cfg.bsN
  · exact .inl ⟨h, by simp [atPosition, h]⟩
  · exact .inr ⟨Nat.not_lt.mp h, by simp [atPosition, h]⟩

/-- What a command with an entry index can do: go on with it, or answer BoundsError. -/
theorem atEntry_cases (n : Word64) (s : State) (body : Nat → Result) :
    (n.toNat < s.size ∧ atEntry n s body = body n.toNat) ∨
      (s.size ≤ n.toNat ∧ atEntry n s body = raise .boundsError s) := by
  by_cases h : n.toNat < s.size
  · exact .inl ⟨h, by simp [atEntry, h]⟩
  · exact .inr ⟨Nat.not_lt.mp h, by simp [atEntry, h]⟩

/-- What VAPPEND's capacity check can do: go on at `size`, or answer CapacityError. -/
theorem atFreeSlot_cases (s : State) (body : Nat → Result) :
    (s.size < s.cfg.maxSize ∧ atFreeSlot s body = body s.size) ∨
      (s.cfg.maxSize ≤ s.size ∧ atFreeSlot s body = raise .capacityError s) := by
  by_cases h : s.size < s.cfg.maxSize
  · exact .inl ⟨h, by simp [atFreeSlot, h]⟩
  · exact .inr ⟨Nat.not_lt.mp h, by simp [atFreeSlot, h]⟩

/-- What encoding a sample can do: go on with the chunk written, or, for a NaN, answer InvalidSample. -/
theorem withEncoded_cases (n : Nat) (w : Word32) (s : State) (body : Store → Result) :
    (∃ z, quantize s.cfg w = some z ∧ withEncoded n w s body = body (writeChunk s.cfg s.v n z)) ∨
      (quantize s.cfg w = none ∧ withEncoded n w s body = raise .invalidSample s) := by
  unfold withEncoded encodeChunk
  cases h : quantize s.cfg w with
  | none => exact .inr ⟨rfl, rfl⟩
  | some z => exact .inl ⟨z, rfl, rfl⟩

/-! ### Fields and chunks keep the number of cells -/

@[simp] theorem length_fieldWrite (X : Store) (b w u : Nat) : (fieldWrite X b w u).length = X.length := by
  induction w generalizing X b u with
  | zero => rfl
  | succ w ih => simp [fieldWrite, ih]

@[simp] theorem length_writeChunk (c : Params) (V : Store) (n : Nat) (z : Quantized) :
    (writeChunk c V n z).length = V.length := by
  unfold writeChunk
  cases c.signBit <;> simp

theorem length_encodeChunk {c : Params} {V W : Store} {n : Nat} {w : Word32} (h : encodeChunk c V n w = some W) :
    W.length = V.length := by
  obtain ⟨z, -, rfl⟩ := Option.map_eq_some_iff.mp h
  exact length_writeChunk c V n z

end Sys2Proof.Machine
end

