-- ==== Sys2Proof/Tests/Slice0.lean ====
section
/-! SUPPORT. Tests on fixed values. Every expected value is copied from `spec/` (the place stands in the comment before a
group); the witnesses at the end show that the hypotheses of each statement can be met. -/

set_option Elab.async false

namespace Sys2Proof.Tests

open Sys2Proof Sys2Proof.Machine

/-! ### Helpers -/

/-- The state after one request. -/
def after (s : State) (cmd : Word32) (opa : Word64) (opb : Word32) : Option State :=
  match step { s with inputs := [.command ⟨cmd, opa, opb⟩] } with
  | .next t => some t
  | _ => none

/-- Status code and result of one request. -/
def reply (s : State) (cmd : Word32) (opa : Word64 := 0) (opb : Word32 := 0) : Option (BitVec 4 × Word64) :=
  (after s cmd opa opb).bind fun t => (lastResponse t).map fun a => (a.status.code, a.res)

/-- The byte image of a store after one request. -/
def image (s : State) (k : StoreIdx) (cmd : Word32) (opa : Word64 := 0) : Option (List Byte) :=
  (after s cmd opa 0).map fun t => byteImage (t.store k)

/-- The byte image of `V` and `size` after one request. -/
def vector (s : State) (cmd : Word32) (opa : Word64) (opb : Word32) : Option (List Byte × Nat) :=
  (after s cmd opa opb).map fun t => (byteImage t.v, t.size)

/-- REF with `B[0] = 0x5A3` and `B[1] = 0x0F0` (`spec/42_bitstore_algebra.md`, preamble). -/
def bits : State :=
  { State.reset with stores := [storeOfWord 12 0x5A3, storeOfWord 12 0x0F0, zeroStore 12, zeroStore 12] }

/-- REF after appending 1.0, 2.0, 3.0: image `02 04 06 00 …` (`spec/95_test_vectors.md` section 1.5). -/
def three : State := { State.reset with v := storeOfWord 80 0x060402, size := 3 }

/-- Configuration `(3, 3, 2, 0)` after three appends: image `4D 7F`, full (`spec/95_test_vectors.md` section 2.6). -/
def full : State :=
  { State.resetFor ⟨3, 3, 2, false, 12, 4⟩ with v := storeOfWord 15 0x7F4D, size := 3 }

/-- Configuration `(2, 4, 4, 1)` with `BS_N = 70`, `BS_COUNT = 2` (`spec/95_test_vectors.md` program P4). -/
def wide : State := State.resetFor ⟨2, 4, 4, true, 70, 2⟩

/-! ### Decoding (words and commands of `spec/95_test_vectors.md` sections 2.1 to 2.3, 2.7 and of the rules' examples) -/

theorem test_decode_bzero : decodeTableWord 32 0x00000200 = some (.bzero 2) := by decide +kernel
theorem test_decode_bldu : decode ⟨0x00000001, 0x5A3, 0⟩ = some (.bldu 0 0x5A3) := by decide +kernel
theorem test_decode_bget : decode ⟨0x00001002, 0xB, 0⟩ = some (.bget 1 0xB) := by decide +kernel
theorem test_decode_bset : decode ⟨0x00100103, 7, 0⟩ = some (.bset 1 7 true) := by decide +kernel
theorem test_decode_btest : decode ⟨0x00000004, 0xA, 0⟩ = some (.btest 0 0xA) := by decide +kernel
theorem test_decode_ball : decodeTableWord 32 0x00000010 = some (.ball 0) := by decide +kernel
theorem test_decode_bany : decodeTableWord 32 0x00002011 = some (.bany 2) := by decide +kernel
theorem test_decode_bnone : decodeTableWord 32 0x00002012 = some (.bnone 2) := by decide +kernel
theorem test_decode_bcount : decodeTableWord 32 0x00003013 = some (.bcount 3) := by decide +kernel
theorem test_decode_band : decodeTableWord 32 0x00010220 = some (.band 2 0 1) := by decide +kernel
theorem test_decode_bor : decodeTableWord 32 0x00011221 = some (.bor 2 1 1) := by decide +kernel
theorem test_decode_bxor : decodeTableWord 32 0x00010222 = some (.bxor 2 0 1) := by decide +kernel
theorem test_decode_bnot : decodeTableWord 32 0x00002323 = some (.bnot 3 2) := by decide +kernel
theorem test_decode_beq : decodeTableWord 32 0x00032024 = some (.beq 2 3) := by decide +kernel
theorem test_decode_banda : decodeTableWord 32 0x00010028 = some (.banda 0 1) := by decide +kernel
theorem test_decode_bora : decodeTableWord 32 0x00010029 = some (.bora 0 1) := by decide +kernel
theorem test_decode_bxora : decodeTableWord 32 0x0000032A = some (.bxora 3 0) := by decide +kernel
theorem test_decode_btou : decodeTableWord 32 0x00003030 = some (.btou 3) := by decide +kernel
theorem test_decode_vappend : decode ⟨0x40, 0, 0x41440000⟩ = some (.vappend 0x41440000) := by decide +kernel
theorem test_decode_vget : decode ⟨0x41, 5, 0⟩ = some (.vget 5) := by decide +kernel
theorem test_decode_vset : decode ⟨0x42, 1, 0xC0200000⟩ = some (.vset 1 0xC0200000) := by decide +kernel
theorem test_decode_vsize : decodeTableWord 32 0x00000043 = some .vsize := by decide +kernel

/-- The table numbers a later word's bits on from the first word's (assumption log 4). -/
theorem test_decode_operand_words :
    decodeTableWord 128 (0x42 + 1 * 2 ^ 32 + 0xC0200000 * 2 ^ 96) = some (.vset 1 0xC0200000) := by decide +kernel

/-- The illegal words of `spec/95_test_vectors.md` section 2.7 that bit patterns decide. -/
theorem test_decode_illegal :
    [0x00000005, 0x00000014, 0x0000002B, 0x00000044, 0x000000FF, 0x80000100, 0x00200000, 0x00000102, 0x00100002,
      0x00100043, 0x00000140, 0x00011023, 0x00001028].map (decodeTableWord 32) = List.replicate 13 none := by
  decide +kernel

/-- Its three words whose store index is not in REF's file, and the legal one. -/
theorem test_store_index_outside_file :
    [reply bits 0x00000400, reply bits 0x00070020, reply bits 0x00009002 99, reply bits 0x00033321] =
      [some (1, 0), some (1, 0), some (1, 0), some (0, 0)] := by decide +kernel

/-! ### WellFormed: an ill-formed command for each field the check covers -/

theorem test_wf_accepts : (Instr.band 3 0 1).WF Params.ref := by decide
theorem test_wf_refuses_sd : ¬ (Instr.band 4 0 1).WF Params.ref := by decide
theorem test_wf_refuses_sa : ¬ (Instr.band 3 15 1).WF Params.ref := by decide
theorem test_wf_refuses_sb : ¬ (Instr.band 3 0 4).WF Params.ref := by decide

/-! ### Construction and single-bit access (`spec/95_test_vectors.md` section 2.1, REF) -/

theorem test_bzero : image bits 0 0x00000000 = some [0x00, 0x00] := by decide +kernel
theorem test_bldu_ignores_high_bits : image bits 0 0x00000001 0xF5A3 = some [0xA3, 0x05] := by decide +kernel
/-- P4 step 1: cells 64 to 69 are cleared. -/
theorem test_bldu_wide :
    image wide 0 0x00000001 0xFFFFFFFFFFFFFFFF = some [255, 255, 255, 255, 255, 255, 255, 255, 0] := by decide +kernel
theorem test_bget : [reply bits 2 0, reply bits 2 2, reply bits 2 5] = [some (0, 1), some (0, 0), some (0, 1)] := by
  decide +kernel
theorem test_bget_range : reply bits 2 0xC = some (2, 0) := by decide +kernel
theorem test_bset : image State.reset 1 0x00100103 7 = some [0x80, 0x00] := by decide +kernel
theorem test_bset_not_truncated : reply State.reset 0x00100103 0x100000003 = some (2, 0) := by decide +kernel
theorem test_btest : [reply bits 4 0xA, reply bits 4 0xB, reply bits 4 0xC] =
    [some (0, 1), some (0, 0), some (2, 0)] := by decide +kernel

/-! ### Reductions (section 2.2) -/

theorem test_ball : reply bits 0x00000010 = some (0, 0) := by decide +kernel
/-- The padding offsets do not count: the image `FF 0F` gives 1. -/
theorem test_ball_padding :
    reply { bits with stores := [storeOfWord 12 0xFFF, [], [], []] } 0x00000010 = some (0, 1) := by decide +kernel
theorem test_bany : [reply bits 0x00000011, reply bits 0x00002011] = [some (0, 1), some (0, 0)] := by decide +kernel
theorem test_bnone : [reply bits 0x00000012, reply bits 0x00002012] = [some (0, 0), some (0, 1)] := by decide +kernel
theorem test_bcount : reply bits 0x00000013 = some (0, 6) := by decide +kernel

/-! ### Algebra, equality, conversion (section 2.3) -/

theorem test_band : image bits 2 0x00010220 = some [0xA0, 0x00] := by decide +kernel
theorem test_band_overlap : image bits 0 0x00001020 = some [0xA0, 0x00] := by decide +kernel
theorem test_bor : image bits 2 0x00010221 = some [0xF3, 0x05] := by decide +kernel
theorem test_bxor : image bits 2 0x00010222 = some [0x53, 0x05] := by decide +kernel
theorem test_bnot : image bits 3 0x00000323 = some [0x5C, 0x0A] := by decide +kernel
theorem test_bnot_padding : image bits 3 0x00002323 = some [0xFF, 0x0F] := by decide +kernel
theorem test_beq : [reply bits 0x00010024, reply bits 0x00032024] = [some (0, 0), some (0, 1)] := by decide +kernel
theorem test_banda : image bits 0 0x00010028 = some [0xA0, 0x00] := by decide +kernel
theorem test_bora : image bits 0 0x00010029 = some [0xF3, 0x05] := by decide +kernel
theorem test_bxora : image bits 0 0x0001002A = some [0x53, 0x05] := by decide +kernel
theorem test_bxora_same : image bits 0 0x0000002A = some [0x00, 0x00] := by decide +kernel
theorem test_btou : reply bits 0x00000030 = some (0, 0x5A3) := by decide +kernel
/-- P4 step 4. -/
theorem test_btou_width : reply wide 0x00000030 = some (5, 0) := by decide +kernel

/-! ### The Sample Vector (`spec/44_sample_vector.md`, `spec/95_test_vectors.md` sections 1.1, 1.5, 2.6, P2) -/

theorem test_vappend : vector State.reset 0x40 0 0x41440000 =
    some ([0x58, 0, 0, 0, 0, 0, 0, 0, 0, 0], 1) := by decide +kernel
theorem test_vappend_errors :
    [reply full 0x40 0 0x3F800000, reply full 0x40 0 0x7FC00000, reply three 0x40 0 0x7F800001] =
      [some (3, 0), some (3, 0), some (6, 0)] := by decide +kernel
theorem test_vget : [reply full 0x41 0, reply full 0x41 1, reply full 0x41 2, reply full 0x41 3] =
    [some (0, 0x40A80000), some (0, 0x40300000), some (0, 0x40F80000), some (4, 0)] := by decide +kernel
theorem test_vget_not_truncated : reply three 0x41 0x8000000000000000 = some (4, 0) := by decide +kernel
theorem test_vset : vector three 0x42 1 0xC0200000 =
    some ([0x02, 0x85, 0x06, 0, 0, 0, 0, 0, 0, 0], 3) := by decide +kernel
/-- P2 step 9: the chunk straddles two bytes; its neighbours share them. -/
theorem test_vset_straddles : vector full 0x42 1 0x3F000000 = some ([0x0D, 0x7E], 3) := by decide +kernel
theorem test_vsize : reply three 0x43 = some (0, 3) := by decide +kernel

/-! ### The codec (section 2.4, REF, and section 2.6) -/

theorem test_quantize_special :
    ([0x80000000, 0x80000001, 0x3E7FFFFF, 0x3E800000, 0x41FDFFFF, 0x42000000, 0xFF800000, 0x7F800001] : List Word32).map
      (quantize Params.ref) =
    [some ⟨false, 0, 0⟩, some ⟨true, 0, 0⟩, some ⟨false, 0, 0⟩, some ⟨false, 0, 1⟩, some ⟨false, 31, 2⟩,
      some ⟨false, 31, 3⟩, some ⟨true, 31, 3⟩, none] := by decide +kernel
theorem test_quantize_truncates : quantize Params.ref 0x414F0A3D = some ⟨false, 12, 3⟩ := by decide +kernel
theorem test_f32 : [f32 false 51 2, f32 true 50 2, f32 true 0 2, f32 false 0 2] =
    [0x414C0000, 0xC1480000, 0x80000000, 0x00000000] := by decide +kernel
/-- A configuration with no integral field: 0.9 and −0.5 give the image `9E`. -/
theorem test_no_integral_field :
    ((encodeChunk ⟨2, 0, 3, true, 12, 4⟩ (zeroStore 8) 0 0x3F666666).bind fun V =>
      (encodeChunk ⟨2, 0, 3, true, 12, 4⟩ V 1 0xBF000000).map byteImage) = some [0x9E] := by decide +kernel
/-- The mask-merge table of section 1.8. -/
theorem test_mask_merge :
    [maskMerge 0xA3 true 2, maskMerge 0xA3 false 0, maskMerge 0xA3 true 0, maskMerge 0xA3 false 7, maskMerge 0x00 true 7,
      maskMerge 0xFF false 3] = [0xA7, 0xA2, 0xA3, 0x23, 0x80, 0xF7] := by decide +kernel
/-- The worked example of R41. -/
theorem test_byte_image :
    byteImage [true, false, true, true, false, false, true, false, true, true, false, false] = [0x4D, 0x03] ∧
    memRead (storeOfWord 12 0x5A3) 1 1 = some [0x05] ∧ memRead (storeOfWord 12 0x5A3) 1 2 = none := by decide +kernel

/-! ### Reset, idle, refusals, ports, assembler -/

/-- P5 step 6: `size` and every cell are 0 again. -/
theorem test_reset_event : step { three with inputs := [.reset] } = .next State.reset := rfl
theorem test_reset_in_flight :
    step { three with inputs := [.resetInFlight ⟨0x43, 0, 0⟩] } = .next State.reset := rfl
theorem test_idle : step State.reset = .next State.reset := rfl
/-- The first step after reset runs the word that is stored for it. -/
theorem test_withFetchWord :
    step (State.reset.withFetchWord 32 0x00000323) = exec (.bnot 3 0) State.reset := rfl
/-- A response stays on the port until the host takes it, and a request presented meanwhile is not accepted (R60). -/
theorem test_port_holds_response :
    (match Port.edges ⟨.idle, three⟩ [⟨false, true, ⟨0x43, 0, 0⟩, true, true, true⟩, ⟨false, true, ⟨0x40, 0, 0⟩, true, true, false⟩,
        ⟨false, true, ⟨0x40, 0, 0⟩, false, true, true⟩] with
      | .next p => p.outputs ⟨false, true, ⟨0x40, 0, 0⟩, false, true, true⟩ == ⟨false, some (0, 3)⟩ && p.core == three
      | _ => false) = true := by decide +kernel
/-- The two examples of R69. -/
theorem test_assembler :
    assemble .band [.store 2, .store 0, .store 1] = some ⟨0x00010220, 0, 0⟩ ∧
    assemble .bset [.store 1, .int 7, .int 1] = some ⟨0x00100103, 7, 0⟩ := by decide +kernel
/-- Decimal samples of `spec/95_test_vectors.md` section 1.1. -/
theorem test_decimal_samples :
    [binary32OfDecimal false 1294 2, binary32OfDecimal true 20004 4, binary32OfDecimal false 122394 2,
      binary32OfDecimal true 1250 2, binary32OfDecimal false 1 0] =
      [0x414F0A3D, 0xC000068E, 0x4498FE14, 0xC1480000, 0x3F800000] := by decide +kernel
/-- The listing of section 2.3 writes BMOV b2, b1 as `0x00011221`. -/
theorem test_bmov : encode (expand (.bmov 2 1)) = ⟨0x00011221, 0, 0⟩ := by decide +kernel

/-! ### Witnesses: concrete values that meet the hypotheses of each statement -/

/-- Two stores of 3 cells, two chunks of 3 cells, one of them an entry. -/
def demo : State :=
  { State.resetFor ⟨2, 1, 1, true, 3, 2⟩ with
    stores := [[true, false, true], [true, true, false]], v := [true, true, false, false, false, false], size := 1 }

/-- The same with both chunks entries. -/
def demoFull : State := { demo with size := 2 }

theorem witness_EncodeInvertsDecode : decode ⟨0x42, 1, 0xC0200000⟩ = some (.vset 1 0xC0200000) := by decide +kernel
theorem witness_RowsSelect : Selects .vset 0x42 ∧ Selects .bset 0x00100F03 := by decide
theorem witness_UnusedCarriersIgnored :
    ∀ o, Selects o 0x41 → (o.usesOpa = true → (5 : Word64) = 5) ∧ (o.usesOpb = true → (0 : Word32) = 9) := by
  intro o h
  cases o <;> simp_all [Selects, specRow, Opcode.usesOpb]
theorem witness_StoreIndexOutsideFile : ∃ k ∈ (Instr.beq 1 2).stores, demo.cfg.bsCount ≤ k.toNat := by decide
/-- The last store, position and bit of a line, and the largest decimal magnitude that is no overflow. -/
theorem witness_AssembledLineDecodes :
    (15 < 16 ∧ 2 ^ 64 - 1 < 2 ^ 64 ∧ 1 < 2) ∧
      (((2 ^ 24 - 1) * 2 ^ 104 : Nat) : ℚ) / 10 ^ 0 ≤ (2 ^ 24 - 1) * 2 ^ 104 ∧
      assemble .vget [.int 7] = some ⟨0x41, 7, 0⟩ :=
  ⟨by decide, by norm_num, by decide +kernel⟩
theorem witness_demo_inv : demo.Inv ∧ demo.Ready ∧ demoFull.Inv := by decide
/-- Covers the statements whose hypotheses are the invariant and store indices of the file (PseudoCommandsCopyAndFlip,
BzeroClearsStore, BlduLoadsLowBits, BallBanyBnoneQuantify, BcountSumsCells, ValueFormsCombineCells, BnotComplementsCells,
BeqComparesCells, AssignmentFormsCombineCells, VsizeAnswersSize); both ends of the range. -/
theorem witness_inFile : demo.Inv ∧ InFile demo.cfg 0 ∧ InFile demo.cfg 1 := by decide
theorem witness_StepRunsDecodedCommand :
    demo.Ready ∧ ({ demo with inputs := [.command ⟨0x43, 0, 0⟩] } : State).inputs = .command ⟨0x43, 0, 0⟩ :: [] ∧
      decode ⟨0x43, 0, 0⟩ = some .vsize := by decide +kernel
theorem witness_IllegalWordRejected : demo.Ready ∧ ∀ o, ¬ Selects o 0x00100043 :=
  ⟨by decide, fun o => by cases o <;> decide⟩
theorem witness_ResetMeetsInvariant : (Params.mk 1 0 0 true 1 2).Legal ∧ (Params.mk 1 0 24 true 1 16).Legal := by decide
theorem witness_StepKeepsInvariant : demo.Inv ∧ step { demo with inputs := [] } = .next demo := ⟨by decide, rfl⟩
/-- Also for RejectedCommandLeavesNoTrace. -/
theorem witness_ErrorChangesNothing :
    exec (.vget 1) demo = .next (demo.respond ⟨.err .boundsError, 0⟩) ∧
      (demo.respond ⟨.err .boundsError, 0⟩).responses = demo.responses ++ [⟨.err .boundsError, 0⟩] := ⟨rfl, rfl⟩
/-- Two conditions hold at once: VSET of a NaN above `size` reports the first. -/
theorem witness_ErrorsFollowTheTable :
    demo.Inv ∧ mayRaise demo (.vset 1 0x7FC00000) .boundsError ∧ mayRaise demo (.vset 1 0x7FC00000) .invalidSample ∧
      answer (.vset 1 0x7FC00000) demo = some ⟨.err .boundsError, 0⟩ :=
  ⟨by decide, by simp [mayRaise, demo], by simp only [mayRaise]; decide +kernel, by decide +kernel⟩
/-- Two states that differ only in `V` and `size`, or only in the file. -/
theorem witness_FileAndVectorIsolated :
    demoFull.cfg = demo.cfg ∧ demoFull.stores = demo.stores ∧ isVector (Instr.ball 0).opcode = false ∧
      ({ demo with stores := [] } : State).v = demo.v ∧ isVector Instr.vsize.opcode = true := by decide
theorem witness_UnpopulatedSlotsUnobservable :
    demo.Inv ∧ [true, true, false, true, true, true].length = demo.v.length ∧
      (∀ p < demo.size * demo.cfg.chunkBits, cell [true, true, false, true, true, true] p = cell demo.v p) ∧
      [true, true, false, true, true, true] ≠ demo.v := by decide
theorem witness_ReadsChangeNothing : isRead (Instr.btou 0).opcode = true := by decide
theorem witness_WritesIdempotent :
    demo.Inv ∧ ¬ notIdempotent (.bldu 1 5) ∧ ∃ t, exec (.bldu 1 5) demo = .next t :=
  ⟨by decide, id, _, rfl⟩
theorem witness_SizeOnlyGrowsByAppend : ∃ t, exec (.vappend 0x3F800000) demo = .next t ∧ t.size = 2 :=
  ⟨_, rfl, by decide +kernel⟩
theorem witness_SizeCountsSuccessfulAppends : demo.cfg.Legal ∧ ∃ t,
    execAll [.vappend 0x3F800000, .vappend 0x7FC00000, .vsize] (State.resetFor demo.cfg) = .next t ∧ t.size = 1 :=
  ⟨by decide, _, rfl, by decide +kernel⟩
theorem witness_ResetDiscardsState :
    demo.cfg.Legal ∧ (({ demo with inputs := [.reset] } : State).inputs = .reset :: [] ∨
      ({ demo with inputs := [.reset] } : State).inputs = .resetInFlight ⟨0, 0, 0⟩ :: []) := by decide
theorem witness_RefusalsAndIdle :
    (demo.cfg.Legal ∧ ({ demo with wasReset := false } : State).wasReset = false) ∧
      ¬ (Params.mk 1 0 0 false 1 2).Legal ∧ ¬ (Params.mk 1 12 13 false 1 2).Legal ∧ demo.inputs = [] := by decide
/-- The last position of the store is accepted, the first one past it is not. -/
theorem witness_BitAccessAtPosition :
    demo.Inv ∧ InFile demo.cfg 1 ∧ (2 : Word64).toNat < demo.cfg.bsN ∧ demo.cfg.bsN ≤ (3 : Word64).toNat ∧
      demo.cfg.bsN ≤ (0x100000000 : Word64).toNat := by decide
theorem witness_ConversionsRoundTrip :
    demo.Inv ∧ InFile demo.cfg 0 ∧ InFile demo.cfg 1 ∧ demo.cfg.bsN ≤ 64 := by decide
theorem witness_BtouAssemblesInteger :
    demo.Inv ∧ InFile demo.cfg 1 ∧ demo.cfg.bsN ≤ 64 ∧ wide.Inv ∧ InFile wide.cfg 1 ∧ 64 < wide.cfg.bsN := by decide +kernel
theorem witness_BooleanLaws : demo.Inv ∧ InFile demo.cfg 0 ∧ InFile demo.cfg 1 ∧ (0 : StoreIdx) ≠ 1 := by decide
theorem witness_BsetIsMaskMerge : 2 < [true, false, true].length := by decide
theorem witness_FieldPrimitives : 1 + 2 ≤ [true, false, true].length ∧ 3 < 2 ^ 2 := by decide
theorem witness_QuantizedFieldsFit :
    quantize demo.cfg 0xBF800000 = some ⟨true, 1, 0⟩ ∧ quantize demo.cfg 0x7FC00000 = none := by decide +kernel
theorem witness_EncodeWritesItsChunk :
    demo.v.length = demo.cfg.nv ∧ 1 < demo.cfg.maxSize ∧ classOf 0xBF800000 ≠ .nan ∧
      encodeChunk demo.cfg demo.v 1 0xBF800000 = some [true, true, false, true, true, false] := by decide +kernel
theorem witness_DecodedWordIsExact : 2 ^ 24 - 1 < 2 ^ 24 ∧ 24 ≤ 24 := by decide
/-- 1.5 is exactly representable with one fractional bit; it is `MAX_MAGNITUDE`. -/
theorem witness_RepresentableWordsRoundTrip :
    demo.cfg.Legal ∧ demo.v.length = demo.cfg.nv ∧ 0 < demo.cfg.maxSize ∧
      magnitudeOf 0x3FC00000 = some (.finite (3 / 2)) ∧ (3 / 2 : ℚ) ≤ demo.cfg.maxMagnitude ∧
      (3 / 2 : ℚ) * 2 ^ demo.cfg.decimalBits = (3 : Nat) ∧ demo.cfg.signBit = true :=
  ⟨by decide, by decide, by decide, by decide +kernel, by decide +kernel, by decide +kernel, rfl⟩
theorem witness_OverflowSaturates :
    demo.cfg.Legal ∧ demo.v.length = demo.cfg.nv ∧ 1 < demo.cfg.maxSize ∧ classOf 0xFF800000 = .inf ∧
      magnitudeOf 0x40000000 = some (.finite 2) ∧
      demo.cfg.maxMagnitude < 2 ∧ magnitudeOf 0xBFC00000 = some (.finite demo.cfg.maxMagnitude) ∧
      signBitOf 0xBFC00000 = signBitOf 0xFF800000 := by decide +kernel
theorem witness_TruncationBound :
    demo.cfg.Legal ∧ demo.v.length = demo.cfg.nv ∧ 1 < demo.cfg.maxSize ∧ magnitudeOf 0x3FA00000 = some (.finite (5 / 4)) ∧ (5 / 4 : ℚ) ≤ demo.cfg.maxMagnitude ∧
      (encodeChunk demo.cfg demo.v 1 0x3FA00000).isSome := by decide +kernel
theorem witness_SignIsIndependent :
    demo.cfg.Legal ∧ demo.v.length = demo.cfg.nv ∧ 1 < demo.cfg.maxSize ∧ classOf 0x3FA00000 = .finite ∧ classOf 0x7F800000 = .inf := by decide +kernel
theorem witness_ReencodeKeepsChunk :
    demo.cfg.Legal ∧ demo.v.length = demo.cfg.nv ∧ 1 < demo.cfg.maxSize := by decide
/-- The last free slot is appended to; a full vector, and a NaN with room, are not. -/
theorem witness_Vappend :
    demo.Inv ∧ demo.size < demo.cfg.maxSize ∧ classOf 0x3F800000 ≠ .nan ∧ classOf 0x7FC00000 = .nan ∧
      demoFull.cfg.maxSize ≤ demoFull.size := by decide +kernel
/-- The last entry is read and written; the index `size` is not (VgetDecodesEntry, VsetRewritesEntry). -/
theorem witness_entries :
    demo.Inv ∧ (0 : Word64).toNat < demo.size ∧ demo.size ≤ (1 : Word64).toNat ∧ classOf 0x3F800000 ≠ .nan ∧
      classOf 0x7FC00000 = .nan := by
  decide +kernel
theorem witness_EntryHoldsQuantizedSample : ∃ t u,
    demo.Inv ∧ quantize demo.cfg 0xBF800000 = some ⟨true, 1, 0⟩ ∧ (1 : Word64).toNat = demo.size ∧
      demo.size < demo.cfg.maxSize ∧ exec (.vappend 0xBF800000) demo = .next t ∧
      (0 : Word64).toNat < demo.size ∧ exec (.vset 0 0xBF800000) demo = .next u ∧
      ∀ w', Instr.vset 0 w' ∈ [Instr.vset 0 0x7FC00000, .bzero 0, .vset 1 0] → classOf w' = .nan :=
  ⟨_, _, by decide, by decide +kernel, by decide, by decide, rfl, by decide, rfl, by
    intro w' h
    obtain rfl : w' = 0x7FC00000 := by simpa using h
    decide +kernel⟩
theorem witness_OtherCommandsKeepEntry : ∃ t,
    demoFull.Inv ∧ (0 : Word64).toNat < demoFull.size ∧
      (∀ k w, Instr.vset 1 0x3F800000 = .vset k w → k ≠ 0) ∧ exec (.vset 1 0x3F800000) demoFull = .next t :=
  ⟨_, by decide, by decide, by rintro _ _ ⟨⟩; decide, rfl⟩
theorem witness_TransactionIsOneStep : ∃ t,
    demo.Ready ∧ step { demo with inputs := .command ⟨0x43, 0, 0⟩ :: demo.inputs } = .next t :=
  ⟨demo.respond ⟨.ok, 1⟩, by decide, rfl⟩
theorem witness_ResetEdgeAbandonsCommand :
    (Port.mk (.inFlight ⟨.ok, 1⟩) demo).core.cfg.Legal ∧ (Pins.mk true false ⟨0, 0, 0⟩ false false false).rst = true ∧
      (Pins.mk false false ⟨0, 0, 0⟩ false false false).rst = false := by decide
/-- An edge that transfers a request, one that transfers a response, and one that transfers neither. -/
theorem witness_OneCommandInFlight :
    (demo.Ready ∧ ((Port.mk .idle demo).outputs ⟨false, true, ⟨0, 0, 0⟩, false, true, false⟩).reqReady = true) ∧
      ((Port.mk (.inFlight ⟨.err .boundsError, 0⟩) demo).outputs ⟨false, true, ⟨0, 0, 0⟩, true, true, true⟩).response =
        some (4, 0) ∧
      ((Port.mk (.inFlight ⟨.ok, 1⟩) demo).outputs ⟨false, true, ⟨0, 0, 0⟩, true, true, false⟩) = ⟨false, none⟩ ∧
      (Port.mk (.inFlight ⟨.ok, 1⟩) demo).phase ≠ .held := by decide

end Sys2Proof.Tests
end

/-! ### The field primitives (`spec/00_scope.md`, rule R13) -/

namespace Sys2Proof.Machine

/-- The lowest cell of a field has weight 1, and the cells above it are a field of half the weight. -/
theorem fieldSum_succ (X : Store) (b w : Nat) :
    fieldSum X b (w + 1) = (cell X b).toNat + 2 * fieldSum X (b + 1) w := by
  have shift : ∀ j, (cell X (b + (j + 1))).toNat * 2 ^ (j + 1) = 2 * ((cell X (b + 1 + j)).toNat * 2 ^ j) := by
    intro j
    rw [show b + (j + 1) = b + 1 + j by omega]
    ring
  simp only [fieldSum, Finset.sum_range_succ', shift, ← Finset.mul_sum]
  simp [Nat.add_comm]

theorem fieldRead_eq_fieldSum (X : Store) (b w : Nat) : fieldRead X b w = fieldSum X b w := by
  induction w generalizing b with
  | zero => rfl
  | succ w ih => rw [fieldRead, fieldSum_succ, ih]

/-- The frame of a field write, for every value: one that does not fit writes no further cell. -/
theorem cell_fieldWrite_outside (X : Store) {b w p : Nat} (u : Nat) (hp : p < b ∨ b + w ≤ p) :
    cell (fieldWrite X b w u) p = cell X p := by
  induction w generalizing X b u with
  | zero => rfl
  | succ w ih =>
    rw [fieldWrite, ih _ _ (by omega)]
    exact cell_setCell_ne X (by omega) _

/-- Bit 0 is written to the base and lies below the rest of the write; the other bits are those of `u / 2`. -/
theorem cell_fieldWrite_inside {X : Store} {b w j : Nat} (hX : b + w ≤ X.length) (u : Nat) (hj : j < w) :
    cell (fieldWrite X b w u) (b + j) = u.testBit j := by
  induction w generalizing X b u j with
  | zero => omega
  | succ w ih =>
    rw [fieldWrite]
    cases j with
    | zero =>
      rw [Nat.add_zero b, cell_fieldWrite_outside _ _ (.inl (Nat.lt_add_one b)), cell_setCell_same (by omega),
        Nat.testBit_zero]
      exact beq_eq_decide _ _
    | succ j =>
      have rest : b + 1 + w ≤ (setCell X b (u % 2 == 1)).length := by
        rw [length_setCell]
        omega
      rw [show b + (j + 1) = b + 1 + j by omega, ih rest _ (by omega), Nat.testBit_succ]

/-- Settles O41, from the field read as R13's sum and the cells a field write sets and keeps. -/
theorem fieldPrimitives : Obligations.FieldPrimitives := by
  intro X b w u hX _
  exact ⟨fieldRead_eq_fieldSum X b w, length_fieldWrite X b w u, fun _ hj => cell_fieldWrite_inside hX u hj,
    fun _ hp => cell_fieldWrite_outside X u hp⟩

end Sys2Proof.Machine

/-! ### No command reads the record of responses (`spec/10_state.md`, rule R25) -/

namespace Sys2Proof.Machine

/-- The same state with another record of the responses given so far. -/
def State.withResponses (s : State) (l : List Response) : State := { s with responses := l }

/-- A meaning that always gives one response, and whose new state and response are the same for every record of the
responses before it. -/
def RecordBlind (m : State → Result) : Prop :=
  ∀ (s : State) (l : List Response), ∃ t a, m s = .next t ∧ t.responses = s.responses ++ [a] ∧
    m (s.withResponses l) = .next (t.withResponses (l ++ [a]))

namespace RecordBlind

/-- A command that ends with OK, when its result `r` and its update `g` of the state leave the record out. -/
theorem done {r : State → Word64} {g : State → State}
    (hr : ∀ s l, r (s.withResponses l) = r s := by intros; rfl)
    (hg : ∀ s l, g (s.withResponses l) = (g s).withResponses l := by intros; rfl)
    (hkeep : ∀ s, (g s).responses = s.responses := by intros; rfl) :
    RecordBlind fun s => Machine.done (r s) (g s) := by
  intro s l
  refine ⟨(g s).respond ⟨.ok, r s⟩, ⟨.ok, r s⟩, done_eq _ _, by rw [State.respond_responses, hkeep], ?_⟩
  simp only [hr, hg, done_eq]
  rfl

theorem raise (e : Err) : RecordBlind (Machine.raise e) :=
  fun s _ => ⟨s.respond ⟨.err e, 0⟩, ⟨.err e, 0⟩, raise_eq e s, rfl, rfl⟩

/-- A check that leaves the record out takes the same branch for every record. -/
theorem ite {c : State → Prop} [DecidablePred c] {m m' : State → Result}
    (hc : ∀ s l, c (s.withResponses l) ↔ c s) (hm : RecordBlind m) (hm' : RecordBlind m') :
    RecordBlind fun s => if c s then m s else m' s := by
  intro s l
  by_cases h : c s
  · simpa only [if_pos h, if_pos ((hc s l).mpr h)] using hm s l
  · simpa only [if_neg h, if_neg (mt (hc s l).mp h)] using hm' s l

theorem legalStores (ks : List StoreIdx) {m : State → Result} (hm : RecordBlind m) :
    RecordBlind fun s => Machine.legalStores ks s (m s) :=
  ite (fun _ _ => Iff.rfl) hm (raise .illegalCommand)

theorem atPosition (p : Word64) {m : State → Nat → Result} (hm : ∀ k, RecordBlind (m · k)) :
    RecordBlind fun s => Machine.atPosition p s (m s) :=
  ite (fun _ _ => Iff.rfl) (hm p.toNat) (raise .rangeError)

theorem atEntry (n : Word64) {m : State → Nat → Result} (hm : ∀ k, RecordBlind (m · k)) :
    RecordBlind fun s => Machine.atEntry n s (m s) :=
  ite (fun _ _ => Iff.rfl) (hm n.toNat) (raise .boundsError)

/-- The index of the free slot is `size`, which is the same under every record. -/
theorem atFreeSlot {m : State → Nat → Result} (hm : ∀ k, RecordBlind (m · k)) :
    RecordBlind fun s => Machine.atFreeSlot s (m s) :=
  ite (fun _ _ => Iff.rfl) (fun s l => hm s.size s l) (raise .capacityError)

/-- The new contents are computed from `cfg` and `V`, which are the same under every record. -/
theorem withEncoded (n : Nat) (w : Word32) {m : State → Store → Result} (hm : ∀ V, RecordBlind (m · V)) :
    RecordBlind fun s => Machine.withEncoded n w s (m s) := by
  intro s l
  have same : (s.withResponses l).cfg = s.cfg ∧ (s.withResponses l).v = s.v := ⟨rfl, rfl⟩
  simp only [Machine.withEncoded, same]
  cases encodeChunk s.cfg s.v n w with
  | none => exact raise .invalidSample s l
  | some V => exact hm V s l

theorem combineStores (f : Bool → Bool → Bool) (sd sa sb : StoreIdx) :
    RecordBlind (Machine.combineStores f sd sa sb) := by
  refine legalStores _ ?_
  exact done

theorem reduceStore (sa : StoreIdx) (f : Store → Word64) : RecordBlind (Machine.reduceStore sa f) := by
  refine legalStores _ ?_
  exact done

theorem readBit (sa : StoreIdx) (p : Word64) : RecordBlind (Machine.readBit sa p) := by
  refine legalStores _ (atPosition p fun k => ?_)
  exact done

theorem exec (i : Instr) : RecordBlind (Machine.exec i) := by
  cases i with
  | bzero | bldu | bnot | beq =>
    refine legalStores _ ?_
    exact done
  | bset sd p v =>
    refine legalStores _ (atPosition p fun k => ?_)
    exact done
  | bget sa p | btest sa p => exact readBit sa p
  | ball sa => exact reduceStore sa fun X => resOfBool (X.all id)
  | bany sa => exact reduceStore sa fun X => resOfBool (X.any id)
  | bnone sa => exact reduceStore sa fun X => resOfBool (X.all not)
  | bcount sa => exact reduceStore sa fun X => resOfNat (X.count true)
  | band sd sa sb | bor sd sa sb | bxor sd sa sb => exact combineStores _ sd sa sb
  | banda sd sb | bora sd sb | bxora sd sb => exact combineStores _ sd sd sb
  | btou =>
    refine legalStores _ (ite (fun _ _ => Iff.rfl) ?_ (raise .widthError))
    exact done
  | vappend w =>
    show RecordBlind (execVappend w)
    refine atFreeSlot fun k => withEncoded k w fun V => ?_
    exact done
  | vget n =>
    show RecordBlind (execVget n)
    refine atEntry n fun k => ?_
    exact done
  | vset n w =>
    show RecordBlind (execVset n w)
    refine atEntry n fun k => withEncoded k w fun V => ?_
    exact done
  | vsize => exact done

end RecordBlind

/-- Settles O21, from the blindness of each shared operation to the record and a split along the commands. -/
theorem responsesInfluenceNothing : Obligations.ResponsesInfluenceNothing :=
  RecordBlind.exec

end Sys2Proof.Machine

/-! ### The byte image (`spec/20_memory.md`, rules R40 to R43) -/

namespace Sys2Proof.Machine

/-- A field with its lowest cell split off is a number with its lowest bit split off. -/
theorem fieldSum_succ_bit (X : Store) (b w : Nat) :
    fieldSum X b (w + 1) = Nat.bit (cell X b) (fieldSum X (b + 1) w) := by
  rw [fieldSum_succ, Nat.bit_val, Nat.add_comm]

theorem testBit_fieldSum (X : Store) (b : Nat) {w k : Nat} (hk : k < w) :
    (fieldSum X b w).testBit k = cell X (b + k) := by
  induction w generalizing b k with
  | zero => omega
  | succ w ih =>
    rw [fieldSum_succ_bit]
    cases k with
    | zero => exact Nat.testBit_bit_zero _ _
    | succ k => rw [Nat.testBit_bit_succ, ih _ (by omega), Nat.add_assoc b, Nat.add_comm 1]

theorem fieldSum_lt (X : Store) (b w : Nat) : fieldSum X b w < 2 ^ w := by
  induction w generalizing b with
  | zero => exact Nat.one_pos
  | succ w ih =>
    rw [fieldSum_succ_bit]
    exact Nat.bit_lt_two_pow_succ_iff.mpr (ih _)

/-- Two adjacent fields read as one: the upper one has the weight of the lower one's width. -/
theorem fieldSum_add (X : Store) (b w v : Nat) :
    fieldSum X b (w + v) = fieldSum X b w + 2 ^ w * fieldSum X (b + w) v := by
  simp only [fieldSum, Finset.sum_range_add, Finset.mul_sum, pow_add, Nat.add_assoc, Nat.mul_left_comm]

/-- A field past the end of the store has no cell, so it is padding. -/
theorem fieldSum_of_length_le {X : Store} {b : Nat} (h : X.length ≤ b) (w : Nat) : fieldSum X b w = 0 :=
  Finset.sum_eq_zero fun j _ => by simp [cell_of_le (show X.length ≤ b + j by omega)]

/-- The integer of the cells of a field that exist is the field's sum: a cell that does not exist counts 0. -/
theorem natOfStore_take_drop (X : Store) (b w : Nat) : natOfStore ((X.drop b).take w) = fieldSum X b w := by
  induction w generalizing b with
  | zero => rfl
  | succ w ih =>
    rcases Nat.lt_or_ge b X.length with hb | hb
    · rw [List.drop_eq_getElem_cons hb, List.take_succ_cons, natOfStore, ih, fieldSum_succ, cell_of_lt hb]
    · rw [List.drop_eq_nil_of_le hb, fieldSum_of_length_le hb]
      rfl

/-- Byte `b` is the field of the 8 cells from `8b` on (R41). -/
theorem toNat_byteOf (X : Store) (b : Nat) : (byteOf X b).toNat = fieldSum X (8 * b) 8 := by
  rw [byteOf, natOfStore_take_drop, BitVec.toNat_ofNat, Nat.mod_eq_of_lt (fieldSum_lt X _ 8)]

/-- Offset `k` of byte `b` is cell `8b + k`, a padding offset is 0 (R40, R42). -/
theorem getLsbD_byteOf (X : Store) (b : Nat) {k : Nat} (hk : k < 8) : (byteOf X b).getLsbD k = cell X (8 * b + k) := by
  rw [← BitVec.testBit_toNat, toNat_byteOf, testBit_fieldSum X _ hk]

/-- The first `n` bytes, weighted by 256, are the field of the first `8n` cells. -/
theorem sum_byteOf (X : Store) (n : Nat) :
    ∑ b ∈ Finset.range n, (byteOf X b).toNat * 256 ^ b = fieldSum X 0 (8 * n) := by
  induction n with
  | zero => rfl
  | succ n ih =>
    have weight : 2 ^ (8 * n) = 256 ^ n := pow_mul 2 8 n
    rw [Finset.sum_range_succ, ih, toNat_byteOf, Nat.mul_succ, fieldSum_add, weight, Nat.zero_add, Nat.mul_comm (256 ^ n)]

/-- A field that reaches past the end of the store has the integer of the whole store (R42). -/
theorem fieldSum_padded (X : Store) {n : Nat} (h : X.length ≤ n) : fieldSum X 0 n = fieldSum X 0 X.length := by
  obtain ⟨padding, rfl⟩ := Nat.exists_eq_add_of_le h
  rw [fieldSum_add, Nat.zero_add, fieldSum_of_length_le le_rfl, Nat.mul_zero, Nat.add_zero]

theorem fieldSum_zero_base (X : Store) (w : Nat) :
    fieldSum X 0 w = ∑ p ∈ Finset.range w, (cell X p).toNat * 2 ^ p := by
  simp only [fieldSum, Nat.zero_add]

@[simp] theorem length_byteImage (X : Store) : (byteImage X).length = (X.length + 7) / 8 := by
  simp [byteImage, Params.backingBytes]

theorem getD_byteImage {X : Store} {b : Nat} (hb : b < (byteImage X).length) : (byteImage X).getD b 0 = byteOf X b := by
  rw [List.getD_eq_getElem _ _ hb]
  simp [byteImage]

/-- Settles O39, from each byte of the image being the field of its 8 cells and adjacent fields adding up to the field
of all cells and the padding. -/
theorem byteImageIsLittleEndian : Obligations.ByteImageIsLittleEndian := by
  intro X
  refine ⟨length_byteImage X, fun b hb k hk => ?_, ?_⟩
  · rw [getD_byteImage hb, getLsbD_byteOf X b hk]
  · have covers : X.length ≤ 8 * (byteImage X).length := by
      rw [length_byteImage]
      omega
    calc ∑ b ∈ Finset.range (byteImage X).length, ((byteImage X).getD b 0).toNat * 256 ^ b
        = ∑ b ∈ Finset.range (byteImage X).length, (byteOf X b).toNat * 256 ^ b :=
          Finset.sum_congr rfl fun b hb => by rw [getD_byteImage (Finset.mem_range.mp hb)]
      _ = fieldSum X 0 (8 * (byteImage X).length) := sum_byteOf X _
      _ = fieldSum X 0 X.length := fieldSum_padded X covers
      _ = ∑ p ∈ Finset.range X.length, (cell X p).toNat * 2 ^ p := fieldSum_zero_base X _

end Sys2Proof.Machine

/-! ### The rows of the opcode map (`spec/30_encoding.md`, rules R64 to R66) -/

namespace Sys2Proof.Machine

/-- The `mask` and `match` columns R64 prints are the ones the decoder derives from a row's format and opcode. -/
theorem specRow_eq (o : Opcode) : specRow o = (o.format.mask, o.pattern) := by
  cases o <;> rfl

theorem selects_iff (o : Opcode) (c : Word32) : Selects o c ↔ c &&& o.format.mask = o.pattern := by
  rw [Selects, specRow_eq]

theorem opField_and (c m : Word32) : opField (c &&& m) = opField c &&& opField m :=
  BitVec.extractLsb'_and

/-- Every mask includes bits 7:0 (R65). -/
theorem opField_mask (f : Format) : opField f.mask = BitVec.allOnes 8 := by
  cases f <;> rfl

theorem opField_pattern (o : Opcode) : opField o.pattern = o.byte := by
  cases o <;> rfl

/-- A row selects only words that carry its opcode: the mask keeps the opcode field whole. -/
theorem opField_of_selects {o : Opcode} {c : Word32} (h : Selects o c) : opField c = o.byte :=
  calc opField c = opField c &&& opField o.format.mask := by rw [opField_mask, BitVec.and_allOnes]
    _ = opField (c &&& o.format.mask) := (opField_and _ _).symm
    _ = o.byte := by rw [(selects_iff o c).mp h, opField_pattern]

/-- Different rows have different opcodes (R65). -/
theorem byte_injective : Function.Injective Opcode.byte := by
  intro o o' h
  have found := Laws.EncodesOpcode.ofByte_byte o
  rw [h, Laws.EncodesOpcode.ofByte_byte] at found
  exact (Option.some.inj found).symm

theorem decode_of_selects {r : Request} {o : Opcode} (h : Selects o r.cmd) : decode r = some (o.operands r) :=
  decode_of_row (opField_of_selects h) ((selects_iff o r.cmd).mp h)

theorem selects_of_decode {r : Request} {i : Instr} (h : decode r = some i) : Selects i.opcode r.cmd := by
  obtain ⟨o, -, hmask, rfl⟩ := row_of_decode h
  rw [opcode_operands]
  exact (selects_iff o r.cmd).mpr hmask

/-- Settles O4, from each row selecting only words that carry its opcode, and the opcodes being distinct. -/
theorem decodeFollowsMaskAndMatch : Obligations.DecodeFollowsMaskAndMatch := by
  refine ⟨fun r o => ⟨?_, fun h => ⟨o.operands r, decode_of_selects h, opcode_operands o r⟩⟩, fun c o o' h h' => ?_⟩
  · rintro ⟨i, hdecode, rfl⟩
    exact selects_of_decode hdecode
  · exact byte_injective ((opField_of_selects h).symm.trans (opField_of_selects h'))

end Sys2Proof.Machine

/-! ### What a command leaves unchanged (`spec/10_state.md`, rule R23; `spec/20_memory.md`, rules R45, R47) -/

namespace Sys2Proof.Machine

theorem State.Inv.lt_length_stores {s : State} {k : StoreIdx} (hs : s.Inv) (hk : InFile s.cfg k) :
    k.toNat < s.stores.length := by
  obtain ⟨-, hcount, -⟩ := hs
  rwa [hcount]

theorem State.Inv.length_store {s : State} {k : StoreIdx} (hs : s.Inv) (hk : InFile s.cfg k) :
    (s.store k).length = s.cfg.bsN := by
  have hlt := hs.lt_length_stores hk
  obtain ⟨-, -, hcells, -⟩ := hs
  exact hcells _ (s.store_mem hlt)

/-- A response alone is the frame of a read and of an error (R47, R156). -/
theorem onlyAnswered_respond (s : State) (a : Response) : OnlyAnswered s (s.respond a) a :=
  ⟨⟨rfl, rfl, rfl, rfl⟩, rfl, rfl, rfl⟩

theorem done_onlyAnswered (r : Word64) (s : State) : ∃ t, done r s = .next t ∧ OnlyAnswered s t ⟨.ok, r⟩ :=
  ⟨_, done_eq r s, onlyAnswered_respond s _⟩

theorem raise_onlyAnswered (e : Err) (s : State) : ∃ t, raise e s = .next t ∧ OnlyAnswered s t ⟨.err e, 0⟩ :=
  ⟨_, raise_eq e s, onlyAnswered_respond s _⟩

/-- One whole store of the file written, and a response: the frame of a writing command (R45). -/
theorem wroteStore_setStore_respond {s : State} {d : StoreIdx} {X : Store} (hs : s.Inv) (hd : InFile s.cfg d)
    (hX : X.length = s.cfg.bsN) (a : Response) : WroteStore s ((s.setStore d X).respond a) d a := by
  refine ⟨⟨rfl, rfl, rfl, rfl⟩, ⟨by simp, fun k hk => s.store_setStore_ne hk X⟩, ⟨rfl, rfl⟩, ?_⟩
  rw [State.respond_store, s.store_setStore_same (hs.lt_length_stores hd), hX]

theorem done_setStore_wroteStore {s : State} {d : StoreIdx} {X : Store} (hs : s.Inv) (hd : InFile s.cfg d)
    (hX : X.length = s.cfg.bsN) (r : Word64) :
    ∃ t, done r (s.setStore d X) = .next t ∧ WroteStore s t d ⟨.ok, r⟩ ∧ t.store d = X :=
  ⟨_, done_eq r _, wroteStore_setStore_respond hs hd hX _, s.store_setStore_same (hs.lt_length_stores hd) X⟩

end Sys2Proof.Machine

/-! ### Construction and single-bit access (`spec/40_bitstore_access.md`, rules R80 to R86) -/

namespace Sys2Proof.Machine

theorem legalStores_singleton {s : State} {k : StoreIdx} (hk : InFile s.cfg k) (body : Result) :
    legalStores [k] s body = body :=
  legalStores_of_inFile (List.forall_mem_singleton.mpr hk) body

theorem atPosition_of_lt {p : Word64} {s : State} (hp : p.toNat < s.cfg.bsN) (body : Nat → Result) :
    atPosition p s body = body p.toNat := by
  rcases atPosition_cases p s body with ⟨-, h⟩ | ⟨hle, -⟩
  · exact h
  · omega

theorem atPosition_of_le {p : Word64} {s : State} (hp : s.cfg.bsN ≤ p.toNat) (body : Nat → Result) :
    atPosition p s body = raise .rangeError s := by
  rcases atPosition_cases p s body with ⟨hlt, -⟩ | ⟨-, h⟩
  · omega
  · exact h

theorem exec_bzero {s : State} {sd : StoreIdx} (hd : InFile s.cfg sd) :
    exec (.bzero sd) s = done 0 (s.setStore sd (zeroStore s.cfg.bsN)) :=
  legalStores_singleton hd _

theorem exec_bldu {s : State} {sd : StoreIdx} (hd : InFile s.cfg sd) (u : Word64) :
    exec (.bldu sd u) s = done 0 (s.setStore sd (storeOfWord s.cfg.bsN u)) :=
  legalStores_singleton hd _

/-- BGET and BTEST are one command: both are the one-cell read (R86). -/
theorem exec_bget_eq_btest (k : StoreIdx) (p : Word64) (s : State) : exec (.bget k p) s = exec (.btest k p) s := rfl

theorem exec_btest {s : State} {k : StoreIdx} {p : Word64} (hk : InFile s.cfg k) (hp : p.toNat < s.cfg.bsN) :
    exec (.btest k p) s = done (resOfBool (cell (s.store k) p.toNat)) s :=
  (legalStores_singleton hk _).trans (atPosition_of_lt hp _)

theorem exec_bset {s : State} {k : StoreIdx} {p : Word64} (hk : InFile s.cfg k) (hp : p.toNat < s.cfg.bsN) (v : Bool) :
    exec (.bset k p v) s = done 0 (s.setStore k (setCell (s.store k) p.toNat v)) :=
  (legalStores_singleton hk _).trans (atPosition_of_lt hp _)

/-- Every command that takes a bit position validates it, right after the store index (R80, R155). -/
theorem exec_checks_position {i : Instr} {k : StoreIdx} {p : Word64} {v : Bool}
    (hi : i ∈ [Instr.bget k p, .btest k p, .bset k p v]) (s : State) :
    ∃ body, exec i s = legalStores [k] s (atPosition p s body) := by
  simp only [List.mem_cons, List.not_mem_nil, or_false] at hi
  rcases hi with rfl | rfl | rfl <;> exact ⟨_, rfl⟩

/-- A boolean answer stands in bit 0 (R63). -/
theorem resOfBool_eq_ite (b : Bool) : resOfBool b = if b = true then 1 else 0 := by
  cases b <;> rfl

/-- The word has no bit from 64 on, so a longer store is filled up with 0 (R82). -/
theorem getLsbD_eq_ite_testBit (u : Word64) (p : Nat) : u.getLsbD p = if p < 64 then u.toNat.testBit p else false := by
  split
  · exact (BitVec.testBit_toNat u).symm
  · exact BitVec.getLsbD_of_ge u p (by omega)

/-- Settles O28, from the store BLDU writes and the bits of a 64-bit word. -/
theorem blduLoadsLowBits : Obligations.BlduLoadsLowBits := by
  intro s sd u hs hd
  obtain ⟨t, hdone, hwrote, hstore⟩ := done_setStore_wroteStore hs hd (length_storeOfWord s.cfg.bsN u) 0
  refine ⟨t, (exec_bldu hd u).trans hdone, hwrote, fun p hp => ?_⟩
  rw [hstore, cell_storeOfWord hp, getLsbD_eq_ite_testBit]

/-- BTEST below `BS_N` answers the cell (R85). -/
theorem exec_btest_answers_cell {s : State} {k : StoreIdx} {p : Word64} (hk : InFile s.cfg k)
    (hp : p.toNat < s.cfg.bsN) :
    ∃ t, exec (.btest k p) s = .next t ∧ OnlyAnswered s t ⟨.ok, if cell (s.store k) p.toNat = true then 1 else 0⟩ := by
  rw [exec_btest hk hp, ← resOfBool_eq_ite]
  exact done_onlyAnswered _ s

/-- BSET below `BS_N` writes the cell and no other (R84). -/
theorem exec_bset_writes_cell {s : State} {k : StoreIdx} {p : Word64} (hs : s.Inv) (hk : InFile s.cfg k)
    (hp : p.toNat < s.cfg.bsN) (v : Bool) :
    ∃ t, exec (.bset k p v) s = .next t ∧ WroteStore s t k ⟨.ok, 0⟩ ∧
      cell (t.store k) p.toNat = v ∧ ∀ q, q ≠ p.toNat → cell (t.store k) q = cell (s.store k) q := by
  have hlen : (s.store k).length = s.cfg.bsN := hs.length_store hk
  obtain ⟨t, hdone, hwrote, hstore⟩ := done_setStore_wroteStore hs hk ((length_setCell _ p.toNat v).trans hlen) 0
  refine ⟨t, (exec_bset hk hp v).trans hdone, hwrote, ?_, fun q hq => ?_⟩
  · rw [hstore, cell_setCell_same (hlen ▸ hp)]
  · rw [hstore, cell_setCell_ne _ hq]

/-- Settles O29, from the one check the three commands share: below `BS_N` they go on to the cell, from `BS_N` on they
answer RangeError. -/
theorem bitAccessAtPosition : Obligations.BitAccessAtPosition := by
  intro s k p v
  refine ⟨fun hs hk hp => ?_, fun hk hp i hi => ?_, exec_bget_eq_btest k p s⟩
  · rw [exec_bget_eq_btest]
    exact ⟨exec_btest_answers_cell hk hp, exec_btest_answers_cell hk hp, exec_bset_writes_cell hs hk hp v⟩
  · obtain ⟨body, hexec⟩ := exec_checks_position hi s
    rw [hexec, legalStores_singleton hk, atPosition_of_le hp]
    exact raise_onlyAnswered .rangeError s

/-- Settles O27, from the store BZERO writes. -/
theorem bzeroClearsStore : Obligations.BzeroClearsStore := by
  intro s sd hs hd
  obtain ⟨t, hdone, hwrote, hstore⟩ := done_setStore_wroteStore hs hd (length_zeroStore s.cfg.bsN) 0
  refine ⟨t, (exec_bzero hd).trans hdone, hwrote, fun p _ => ?_⟩
  rw [hstore, cell_zeroStore]

end Sys2Proof.Machine

/-! ### Reductions (`spec/41_bitstore_reduce.md`, rules R90 to R93) -/

namespace Sys2Proof.Machine

theorem exec_ball {s : State} {sa : StoreIdx} (ha : InFile s.cfg sa) :
    exec (.ball sa) s = done (resOfBool ((s.store sa).all id)) s :=
  legalStores_singleton ha _

theorem exec_bany {s : State} {sa : StoreIdx} (ha : InFile s.cfg sa) :
    exec (.bany sa) s = done (resOfBool ((s.store sa).any id)) s :=
  legalStores_singleton ha _

theorem exec_bnone {s : State} {sa : StoreIdx} (ha : InFile s.cfg sa) :
    exec (.bnone sa) s = done (resOfBool ((s.store sa).all not)) s :=
  legalStores_singleton ha _

theorem exec_bcount {s : State} {sa : StoreIdx} (ha : InFile s.cfg sa) :
    exec (.bcount sa) s = done (resOfNat ((s.store sa).count true)) s :=
  legalStores_singleton ha _

/-- The result a command ends with is the one it answers. -/
theorem answer_of_exec_eq_done {i : Instr} {s t : State} {r : Word64} (h : exec i s = done r t) :
    answer i s = some ⟨.ok, r⟩ := by
  simp [answer, h, done_eq, lastResponse]

/-! #### The cells of a store as its members -/

theorem mem_store_iff {X : Store} {b : Bool} : b ∈ X ↔ ∃ p < X.length, cell X p = b := by
  rw [List.mem_iff_getElem]
  exact exists_congr fun p =>
    ⟨fun ⟨hp, h⟩ => ⟨hp, (cell_of_lt hp).trans h⟩, fun ⟨hp, h⟩ => ⟨hp, (cell_of_lt hp).symm.trans h⟩⟩

/-- BANY's existential quantifier (R91). -/
theorem any_id_iff (X : Store) : X.any id = true ↔ ∃ p < X.length, cell X p = true := by
  rw [← mem_store_iff, List.any_eq_true]
  simp

/-- BNONE is the negation of BANY (R92). -/
theorem all_not_eq_not_any_id (X : Store) : X.all not = !X.any id :=
  List.not_any_eq_all_not.symm

/-- BNONE's quantifier: no cell is 1 (R92). -/
theorem all_not_iff (X : Store) : X.all not = true ↔ ∀ p < X.length, cell X p = false := by
  rw [all_not_eq_not_any_id, Bool.not_eq_true', ← Bool.not_eq_true, any_id_iff]
  simp

/-- BALL's universal quantifier: no cell is 0 (R90). -/
theorem all_id_iff (X : Store) : X.all id = true ↔ ∀ p < X.length, cell X p = true := by
  have members : X.all id = true ↔ false ∉ X := by simp
  rw [members, mem_store_iff]
  simp

/-! #### The quantifiers and the count -/

/-- Every cell is 1 exactly when the count reaches the number of cells (R90, R93). -/
theorem all_id_iff_count (X : Store) : X.all id = true ↔ X.count true = X.length := by
  rw [List.count_eq_length, List.all_eq_true]
  exact forall₂_congr fun b _ => eq_comm

/-- Some cell is 1 exactly when the count is not 0 (R91, R93). -/
theorem any_id_iff_count (X : Store) : X.any id = true ↔ 1 ≤ X.count true := by
  rw [any_id_iff, ← mem_store_iff]
  exact List.count_pos_iff.symm

/-- The number of cells that are 1 is the sum of the cells (R93). -/
theorem count_eq_sum_cells (X : Store) : X.count true = ∑ p ∈ Finset.range X.length, (cell X p).toNat := by
  induction X with
  | nil => rfl
  | cons b X ih =>
    simp only [List.length_cons, Finset.sum_range_succ', cell_cons_succ, cell_cons_zero, ← ih]
    cases b <;> simp

theorem State.Inv.count_le_bsN {s : State} {sa : StoreIdx} (hs : s.Inv) (ha : InFile s.cfg sa) :
    (s.store sa).count true ≤ s.cfg.bsN :=
  List.count_le_length.trans_eq (hs.length_store ha)

/-- `BS_N` is below `2^32`, so the count fits in the 64 bits of `res` (R9, R93). -/
theorem State.Inv.toNat_resOfNat_count {s : State} {sa : StoreIdx} (hs : s.Inv) (ha : InFile s.cfg sa) :
    (resOfNat ((s.store sa).count true)).toNat = (s.store sa).count true := by
  have hcount : (s.store sa).count true ≤ s.cfg.bsN := hs.count_le_bsN ha
  obtain ⟨⟨-, -, -, -, -, hbsN, -⟩, -⟩ := hs
  rw [resOfNat, BitVec.toNat_ofNat]
  exact Nat.mod_eq_of_lt (by omega)

/-! #### Boolean results as words -/

theorem resOfBool_eq_ite_of_iff {b : Bool} {P : Prop} [Decidable P] (h : b = true ↔ P) :
    resOfBool b = if P then 1 else 0 :=
  (resOfBool_eq_ite b).trans (if_congr h rfl rfl)

theorem resOfBool_eq_one_iff {b : Bool} : resOfBool b = 1 ↔ b = true := by
  cases b <;> decide

theorem resOfBool_not (b : Bool) : resOfBool (!b) = 1 - resOfBool b := by
  cases b <;> rfl

/-- Settles O31, from the count as the sum of the cells, which `BS_N` bounds. -/
theorem bcountSumsCells : Obligations.BcountSumsCells := by
  intro s sa hs ha
  obtain ⟨t, hdone, hanswered⟩ := done_onlyAnswered (resOfNat ((s.store sa).count true)) s
  refine ⟨t, _, (exec_bcount ha).trans hdone, hanswered, ?_⟩
  rw [hs.toNat_resOfNat_count ha]
  refine ⟨?_, hs.count_le_bsN ha⟩
  rw [count_eq_sum_cells, hs.length_store ha]

/-- Settles O30, from each reduction as a quantifier over the cells and as a comparison with the count. -/
theorem ballBanyBnoneQuantify : Obligations.BallBanyBnoneQuantify := by
  intro s sa hs ha
  obtain ⟨t₁, hall, hanswered₁⟩ := done_onlyAnswered (resOfBool ((s.store sa).all id)) s
  obtain ⟨t₂, hany, hanswered₂⟩ := done_onlyAnswered (resOfBool ((s.store sa).any id)) s
  obtain ⟨t₃, hnone, hanswered₃⟩ := done_onlyAnswered (resOfBool ((s.store sa).all not)) s
  refine ⟨t₁, t₂, t₃, _, _, _, _, (exec_ball ha).trans hall, hanswered₁, (exec_bany ha).trans hany, hanswered₂,
    (exec_bnone ha).trans hnone, hanswered₃, ?_, ?_, ?_, answer_of_exec_eq_done (exec_bcount ha), ?_, ?_, ?_⟩
  · exact resOfBool_eq_ite_of_iff (hs.length_store ha ▸ all_id_iff _)
  · exact resOfBool_eq_ite_of_iff (hs.length_store ha ▸ any_id_iff _)
  · exact resOfBool_eq_ite_of_iff (hs.length_store ha ▸ all_not_iff _)
  · rw [resOfBool_eq_one_iff, hs.toNat_resOfNat_count ha, ← hs.length_store ha]
    exact all_id_iff_count _
  · rw [resOfBool_eq_one_iff, hs.toNat_resOfNat_count ha]
    exact any_id_iff_count _
  · rw [all_not_eq_not_any_id, resOfBool_not]

end Sys2Proof.Machine

/-! ### Algebra, equality and conversion (`spec/42_bitstore_algebra.md`, rules R100 to R110) -/

namespace Sys2Proof.Machine

theorem legalStores_pair {s : State} {k l : StoreIdx} (hk : InFile s.cfg k) (hl : InFile s.cfg l) (body : Result) :
    legalStores [k, l] s body = body :=
  legalStores_of_inFile (by simp [hk, hl]) body

theorem legalStores_triple {s : State} {k l m : StoreIdx} (hk : InFile s.cfg k) (hl : InFile s.cfg l)
    (hm : InFile s.cfg m) (body : Result) : legalStores [k, l, m] s body = body :=
  legalStores_of_inFile (by simp [hk, hl, hm]) body

/-! #### Cell-wise operators (R100 to R104, R106 to R108) -/

/-- The operator takes the old cells of both sources, so it does not matter which of the three stores coincide (R100). -/
theorem combineStores_writes_cells (f : Bool → Bool → Bool) {s : State} {sd sa sb : StoreIdx} (hs : s.Inv)
    (hd : InFile s.cfg sd) (ha : InFile s.cfg sa) (hb : InFile s.cfg sb) :
    ∃ t, combineStores f sd sa sb s = .next t ∧ WroteStore s t sd ⟨.ok, 0⟩ ∧
      ∀ p < s.cfg.bsN, cell (t.store sd) p = f (cell (s.store sa) p) (cell (s.store sb) p) := by
  have hlenA : (s.store sa).length = s.cfg.bsN := hs.length_store ha
  have hlenB : (s.store sb).length = s.cfg.bsN := hs.length_store hb
  have hlen : (List.zipWith f (s.store sa) (s.store sb)).length = s.cfg.bsN := by
    rw [List.length_zipWith, hlenA, hlenB, Nat.min_self]
  obtain ⟨t, hdone, hwrote, hstore⟩ := done_setStore_wroteStore hs hd hlen 0
  refine ⟨t, (legalStores_triple hd ha hb _).trans hdone, hwrote, fun p hp => ?_⟩
  rw [hstore, cell_zipWith (hlenA ▸ hp) (hlenB ▸ hp)]

theorem exec_bnot {s : State} {sd sa : StoreIdx} (hd : InFile s.cfg sd) (ha : InFile s.cfg sa) :
    exec (.bnot sd sa) s = done 0 (s.setStore sd ((s.store sa).map not)) :=
  legalStores_pair hd ha _

/-- An assignment form is the value form whose first source is the destination (R106). -/
theorem exec_banda_eq_band (sd sb : StoreIdx) (s : State) : exec (.banda sd sb) s = exec (.band sd sd sb) s := rfl

/-- An assignment form is the value form whose first source is the destination (R107). -/
theorem exec_bora_eq_bor (sd sb : StoreIdx) (s : State) : exec (.bora sd sb) s = exec (.bor sd sd sb) s := rfl

/-- An assignment form is the value form whose first source is the destination (R108). -/
theorem exec_bxora_eq_bxor (sd sb : StoreIdx) (s : State) : exec (.bxora sd sb) s = exec (.bxor sd sd sb) s := rfl

/-- Settles O32: the three commands are one cell-wise operation with three operators. -/
theorem valueFormsCombineCells : Obligations.ValueFormsCombineCells := by
  intro s sd sa sb hs hd ha hb
  exact ⟨combineStores_writes_cells and hs hd ha hb, combineStores_writes_cells or hs hd ha hb,
    combineStores_writes_cells xor hs hd ha hb⟩

/-- Settles O35, from the value forms with the destination as first source. -/
theorem assignmentFormsCombineCells : Obligations.AssignmentFormsCombineCells := by
  intro s sd sb hs hd hb
  obtain ⟨⟨t₁, hand, wroteAnd⟩, ⟨t₂, hor, wroteOr⟩, ⟨t₃, hxor, wroteXor⟩⟩ := valueFormsCombineCells s sd sd sb hs hd hd hb
  exact ⟨⟨t₁, (exec_banda_eq_band sd sb s).trans hand, hand, wroteAnd⟩,
    ⟨t₂, (exec_bora_eq_bor sd sb s).trans hor, hor, wroteOr⟩,
    ⟨t₃, (exec_bxora_eq_bxor sd sb s).trans hxor, hxor, wroteXor⟩⟩

/-- Settles O33, from the store BNOT writes, which has as many cells as its source. -/
theorem bnotComplementsCells : Obligations.BnotComplementsCells := by
  intro s sd sa hs hd ha
  have hlen : (s.store sa).length = s.cfg.bsN := hs.length_store ha
  obtain ⟨t, hdone, hwrote, hstore⟩ := done_setStore_wroteStore hs hd ((List.length_map not).trans hlen) 0
  refine ⟨t, (exec_bnot hd ha).trans hdone, hwrote, fun p hp => ?_⟩
  rw [hstore, cell_mapNot (hlen ▸ hp)]

/-! #### Equality (R105) -/

theorem exec_beq {s : State} {sa sb : StoreIdx} (ha : InFile s.cfg sa) (hb : InFile s.cfg sb) :
    exec (.beq sa sb) s = done (resOfBool (s.store sa == s.store sb)) s :=
  legalStores_pair ha hb _

theorem store_beq_iff_cells {X Y : Store} (hl : X.length = Y.length) :
    (X == Y) = true ↔ ∀ p < X.length, cell X p = cell Y p := by
  rw [beq_iff_eq]
  exact ⟨fun h p _ => by rw [h], store_ext hl⟩

/-- Settles O34: two stores of one length are equal exactly when their cells are. -/
theorem beqComparesCells : Obligations.BeqComparesCells := by
  intro s sa sb hs ha hb
  have hlenA : (s.store sa).length = s.cfg.bsN := hs.length_store ha
  have hcells := store_beq_iff_cells (hlenA.trans (hs.length_store hb).symm)
  rw [hlenA] at hcells
  rw [exec_beq ha hb, ← resOfBool_eq_ite_of_iff hcells]
  exact done_onlyAnswered _ s

/-! #### The integer of a store (R43, R109) -/

theorem natOfStore_eq_fieldSum (X : Store) : natOfStore X = fieldSum X 0 X.length := by
  rw [← natOfStore_take_drop, List.drop_zero, List.take_length]

theorem natOfStore_lt (X : Store) : natOfStore X < 2 ^ X.length := by
  rw [natOfStore_eq_fieldSum]
  exact fieldSum_lt X 0 X.length

/-- Bit `p` of the integer of a store is its cell `p`, and 0 past its end. -/
theorem testBit_natOfStore (X : Store) (p : Nat) : (natOfStore X).testBit p = cell X p := by
  rcases Nat.lt_or_ge p X.length with hp | hp
  · rw [natOfStore_eq_fieldSum, testBit_fieldSum X 0 hp, Nat.zero_add]
  · rw [cell_of_le hp]
    exact Nat.testBit_lt_two_pow ((natOfStore_lt X).trans_le (Nat.pow_le_pow_right Nat.two_pos hp))

/-- The integer of a store of at most 64 cells fits in `res` (R109). -/
theorem toNat_resOfNat_natOfStore {X : Store} (h : X.length ≤ 64) : (resOfNat (natOfStore X)).toNat = natOfStore X := by
  rw [resOfNat, BitVec.toNat_ofNat]
  exact Nat.mod_eq_of_lt ((natOfStore_lt X).trans_le (Nat.pow_le_pow_right Nat.two_pos h))

theorem exec_btou_of_le {s : State} {sa : StoreIdx} (ha : InFile s.cfg sa) (hfits : s.cfg.bsN ≤ 64) :
    exec (.btou sa) s = done (resOfNat (natOfStore (s.store sa))) s :=
  (legalStores_singleton ha _).trans (if_pos hfits)

theorem exec_btou_of_gt {s : State} {sa : StoreIdx} (ha : InFile s.cfg sa) (hwide : 64 < s.cfg.bsN) :
    exec (.btou sa) s = raise .widthError s :=
  (legalStores_singleton ha _).trans (if_neg (Nat.not_le.mpr hwide))

/-- Settles O36, from the integer of a store as the sum of its weighted cells. -/
theorem btouAssemblesInteger : Obligations.BtouAssemblesInteger := by
  intro s sa hs ha
  have hlen : (s.store sa).length = s.cfg.bsN := hs.length_store ha
  refine ⟨fun hfits => ?_, fun hwide => ?_⟩
  · obtain ⟨t, hdone, hanswered⟩ := done_onlyAnswered (resOfNat (natOfStore (s.store sa))) s
    refine ⟨t, _, (exec_btou_of_le ha hfits).trans hdone, hanswered, ?_⟩
    rw [toNat_resOfNat_natOfStore (hlen.trans_le hfits), natOfStore_eq_fieldSum, fieldSum_zero_base, hlen]
  · rw [exec_btou_of_gt ha hwide]
    exact raise_onlyAnswered .widthError s

/-! #### The two conversions are inverse (R110) -/

/-- A store keeps the bits of the word below its length, at any length. -/
theorem natOfStore_storeOfWord (n : Nat) (u : Word64) : natOfStore (storeOfWord n u) = u.toNat % 2 ^ n := by
  refine Nat.eq_of_testBit_eq fun p => ?_
  rw [testBit_natOfStore, Nat.testBit_mod_two_pow]
  rcases Nat.lt_or_ge p n with hp | hp
  · rw [cell_storeOfWord hp, decide_eq_true hp, Bool.true_and, BitVec.testBit_toNat]
  · rw [cell_of_le (by simpa using hp), decide_eq_false (Nat.not_lt.mpr hp), Bool.false_and]

/-- A store of at most 64 cells is the store of its own integer. -/
theorem storeOfWord_resOfNat_natOfStore {X : Store} (h : X.length ≤ 64) :
    storeOfWord X.length (resOfNat (natOfStore X)) = X := by
  refine store_ext (length_storeOfWord _ _) fun p hp => ?_
  rw [length_storeOfWord] at hp
  rw [cell_storeOfWord hp, ← BitVec.testBit_toNat, toNat_resOfNat_natOfStore h, testBit_natOfStore]

/-- BLDU writes the store of its word, in the same configuration (R82). -/
theorem exec_bldu_store {s : State} {k : StoreIdx} (hs : s.Inv) (hk : InFile s.cfg k) (u : Word64) :
    ∃ t, exec (.bldu k u) s = .next t ∧ t.cfg = s.cfg ∧ t.store k = storeOfWord s.cfg.bsN u ∧
      ∀ l : StoreIdx, l ≠ k → t.store l = s.store l := by
  obtain ⟨t, hdone, ⟨⟨-, -, -, hcfg⟩, ⟨-, hothers⟩, -⟩, hstore⟩ :=
    done_setStore_wroteStore hs hk (length_storeOfWord s.cfg.bsN u) 0
  exact ⟨t, (exec_bldu hk u).trans hdone, hcfg, hstore, hothers⟩

/-- BTOU after BLDU of `u` answers the bits of `u` the store holds (R110). -/
theorem btou_after_bldu {s : State} {k : StoreIdx} (hs : s.Inv) (hk : InFile s.cfg k) (hfits : s.cfg.bsN ≤ 64)
    (u : Word64) :
    ∃ t x, exec (.bldu k u) s = .next t ∧ answer (.btou k) t = some ⟨.ok, x⟩ ∧
      x.toNat = u.toNat % 2 ^ s.cfg.bsN := by
  obtain ⟨t, hexec, hcfg, hstore, -⟩ := exec_bldu_store hs hk u
  refine ⟨t, _, hexec, answer_of_exec_eq_done (exec_btou_of_le (hcfg ▸ hk) (hcfg ▸ hfits)), ?_⟩
  rw [hstore, toNat_resOfNat_natOfStore ((length_storeOfWord _ u).trans_le hfits), natOfStore_storeOfWord]

/-- BLDU of what BTOU answered makes the two stores equal, one store loaded into itself included (R110). -/
theorem beq_after_bldu_of_btou {s : State} {k k' : StoreIdx} (hs : s.Inv) (hk : InFile s.cfg k)
    (hk' : InFile s.cfg k') (hfits : s.cfg.bsN ≤ 64) :
    ∃ x t, answer (.btou k) s = some ⟨.ok, x⟩ ∧ exec (.bldu k' x) s = .next t ∧
      answer (.beq k' k) t = some ⟨.ok, 1⟩ := by
  have hlen : (s.store k).length = s.cfg.bsN := hs.length_store hk
  obtain ⟨t, hexec, hcfg, hstore, hothers⟩ := exec_bldu_store hs hk' (resOfNat (natOfStore (s.store k)))
  have hloaded : t.store k' = s.store k := by
    rw [hstore, ← hlen, storeOfWord_resOfNat_natOfStore (hlen.trans_le hfits)]
  have hequal : t.store k' = t.store k := by
    rcases eq_or_ne k k' with rfl | hne
    · rfl
    · rw [hloaded, hothers k hne]
  have hbeq : exec (.beq k' k) t = done 1 t := by
    rw [exec_beq (hcfg ▸ hk') (hcfg ▸ hk), resOfBool_eq_one_iff.mpr (beq_iff_eq.mpr hequal)]
  exact ⟨_, t, answer_of_exec_eq_done (exec_btou_of_le hk hfits), hexec, answer_of_exec_eq_done hbeq⟩

/-- Settles O37, from a store holding the low bits of the word loaded and being the store of its own integer. -/
theorem conversionsRoundTrip : Obligations.ConversionsRoundTrip := by
  intro s k k' u hs hk hk' hfits
  exact ⟨btou_after_bldu hs hk hfits u, beq_after_bldu_of_btou hs hk hk' hfits⟩

end Sys2Proof.Machine

/-! ### Reading a sample word (`spec/43_fixed_point_codec.md`, rules R120, R121) -/

namespace Sys2Proof.Machine

/-- The three fields of R120 determine a word. -/
theorem word_ext {w w' : Word32} (hs : signBitOf w = signBitOf w') (hE : exponentOf w = exponentOf w')
    (hF : fractionOf w = fractionOf w') : w = w' := by
  simp only [signBitOf, exponentOf, fractionOf] at hs hE hF
  refine BitVec.eq_of_getLsbD_eq fun k hk => ?_
  rcases Nat.lt_or_ge k 23 with hlow | hhigh
  · simpa [hlow] using congrArg (·.getLsbD k) hF
  rcases Nat.lt_or_ge k 31 with hmid | htop
  · have hk8 : k - 23 < 8 := by omega
    simpa [hk8, Nat.add_sub_cancel' hhigh] using congrArg (·.getLsbD (k - 23)) hE
  · obtain rfl : k = 31 := by omega
    exact hs

theorem significandOf_lt (w : Word32) : significandOf w < 2 ^ 24 := by
  have := (fractionOf w).isLt
  unfold significandOf
  split <;> omega

/-- The implicit bit of a word with a nonzero exponent field. -/
theorem le_significandOf {w : Word32} (h : exponentOf w ≠ 0) : 2 ^ 23 ≤ significandOf w := by
  rw [significandOf, if_neg h]
  omega

theorem significandOf_eq_zero_iff (w : Word32) : significandOf w = 0 ↔ exponentOf w = 0 ∧ fractionOf w = 0 := by
  by_cases h : exponentOf w = 0
  · simp [significandOf, h, ← BitVec.toNat_inj]
  · simp only [h, false_and, iff_false]
    exact (Nat.two_pow_pos 23).trans_le (le_significandOf h) |>.ne'

theorem classOf_of_exponentOf_ne {w : Word32} (hE : exponentOf w ≠ 255) :
    classOf w = if significandOf w = 0 then .zero else .finite := by
  rw [classOf, if_neg hE]
  simp only [significandOf_eq_zero_iff]

/-- A zero or finite word has the value `sig · 2^ex`: the significand of a zero is 0. -/
theorem magnitudeOf_of_exponentOf_ne {w : Word32} (hE : exponentOf w ≠ 255) :
    magnitudeOf w = some (.finite (significandOf w * 2 ^ scaleOf w)) := by
  rw [magnitudeOf, classOf_of_exponentOf_ne hE]
  by_cases hzero : significandOf w = 0 <;> simp [hzero]

/-- An exponent field of all ones is an infinity or a NaN (R120). -/
theorem magnitudeOf_ne_finite {w : Word32} (hE : exponentOf w = 255) (m : ℚ) : magnitudeOf w ≠ some (.finite m) := by
  rw [magnitudeOf, classOf, if_pos hE]
  split_ifs <;> simp

theorem magnitudeOf_eq_finite_iff {w : Word32} {m : ℚ} :
    magnitudeOf w = some (.finite m) ↔ exponentOf w ≠ 255 ∧ m = significandOf w * 2 ^ scaleOf w := by
  by_cases hE : exponentOf w = 255
  · exact ⟨fun h => absurd h (magnitudeOf_ne_finite hE m), fun ⟨hne, _⟩ => absurd hE hne⟩
  · rw [magnitudeOf_of_exponentOf_ne hE, Option.some.injEq, Magnitude.finite.injEq, eq_comm]
    exact ⟨fun h => ⟨hE, h⟩, fun ⟨_, h⟩ => h⟩

/-- A word with a finite magnitude is of class Zero when the magnitude is 0, and of class Finite otherwise. -/
theorem classOf_of_magnitudeOf {w : Word32} {m : ℚ} (h : magnitudeOf w = some (.finite m)) :
    classOf w = if m = 0 then .zero else .finite := by
  have hpow : (2 : ℚ) ^ scaleOf w ≠ 0 := zpow_ne_zero _ two_ne_zero
  obtain ⟨hE, rfl⟩ := magnitudeOf_eq_finite_iff.mp h
  simp only [classOf_of_exponentOf_ne hE, mul_eq_zero, hpow, or_false, Nat.cast_eq_zero]

/-- `Neg` is the sign bit, except that a zero is not negative (R121). -/
theorem negOf_of_magnitudeOf {w : Word32} {m : ℚ} (h : magnitudeOf w = some (.finite m)) :
    negOf w = (signBitOf w && decide (m ≠ 0)) := by
  rw [negOf, classOf_of_magnitudeOf h]
  by_cases hm : m = 0 <;> simp [hm]

theorem magnitudeOf_nonneg {w : Word32} {m : ℚ} (h : magnitudeOf w = some (.finite m)) : 0 ≤ m := by
  obtain ⟨-, rfl⟩ := magnitudeOf_eq_finite_iff.mp h
  positivity

theorem valueOf_of_magnitudeOf {w : Word32} {m : ℚ} (h : magnitudeOf w = some (.finite m)) :
    valueOf w = some (if signBitOf w then -m else m) := by
  rw [valueOf, h]

/-- A word with a larger scale is normal, so its significand makes up for the whole significand of the other word. -/
theorem magnitude_lt_of_scaleOf_lt {w w' : Word32} (h : scaleOf w < scaleOf w') :
    (significandOf w : ℚ) * 2 ^ scaleOf w < significandOf w' * 2 ^ scaleOf w' := by
  have hnormal : exponentOf w' ≠ 0 := by
    intro hE
    have : scaleOf w' = -149 := if_pos hE
    have : -149 ≤ scaleOf w := by
      unfold scaleOf
      split
      · rfl
      next hne =>
        have : (exponentOf w).toNat ≠ 0 := fun h0 => hne (BitVec.eq_of_toNat_eq h0)
        omega
    omega
  have hsig : (significandOf w : ℚ) < 2 ^ 24 := by exact_mod_cast significandOf_lt w
  have hsig' : (2 : ℚ) ^ 23 ≤ significandOf w' := by exact_mod_cast le_significandOf hnormal
  calc (significandOf w : ℚ) * 2 ^ scaleOf w < 2 ^ 24 * 2 ^ scaleOf w := by gcongr
    _ = 2 ^ 23 * 2 ^ (scaleOf w + 1) := by rw [zpow_add_one₀ two_ne_zero]; ring
    _ ≤ 2 ^ 23 * 2 ^ scaleOf w' := by gcongr <;> [norm_num; omega]
    _ ≤ significandOf w' * 2 ^ scaleOf w' := by gcongr

/-- Significand and scale determine the fields of a word: only the exponent fields 0 and 1 share a scale, and the
implicit bit tells them apart. -/
theorem fields_eq_of_significandOf_scaleOf {w w' : Word32} (hsig : significandOf w = significandOf w')
    (hscale : scaleOf w = scaleOf w') : exponentOf w = exponentOf w' ∧ fractionOf w = fractionOf w' := by
  have hF := (fractionOf w).isLt
  have hF' := (fractionOf w').isLt
  simp only [significandOf, scaleOf, ← BitVec.toNat_inj] at *
  split_ifs at hsig hscale <;> omega

/-- A word is determined by its sign bit and a finite magnitude. -/
theorem eq_of_magnitudeOf_eq {w w' : Word32} {m : ℚ} (hs : signBitOf w = signBitOf w')
    (h : magnitudeOf w = some (.finite m)) (h' : magnitudeOf w' = some (.finite m)) : w = w' := by
  obtain ⟨-, hm⟩ := magnitudeOf_eq_finite_iff.mp h
  obtain ⟨-, hm'⟩ := magnitudeOf_eq_finite_iff.mp h'
  have hscale : scaleOf w = scaleOf w' := by
    rcases lt_trichotomy (scaleOf w) (scaleOf w') with hlt | heq | hgt
    · exact absurd (hm.symm.trans hm') (magnitude_lt_of_scaleOf_lt hlt).ne
    · exact heq
    · exact absurd (hm'.symm.trans hm) (magnitude_lt_of_scaleOf_lt hgt).ne
  have hsig : significandOf w = significandOf w' := by
    rw [hscale] at hm
    exact_mod_cast mul_right_cancel₀ (zpow_ne_zero _ two_ne_zero) (hm.symm.trans hm')
  obtain ⟨hE, hF⟩ := fields_eq_of_significandOf_scaleOf hsig hscale
  exact word_ext hs hE hF

/-! ### The word `F32` builds (R129) -/

section assembled
variable (neg : Bool) (E : BitVec 8) (F : BitVec 23)

theorem signBitOf_append : signBitOf (BitVec.ofBool neg ++ E ++ F) = neg := by
  simp only [signBitOf, BitVec.getLsbD_append]
  simp

theorem exponentOf_append : exponentOf (BitVec.ofBool neg ++ E ++ F) = E := by
  refine BitVec.eq_of_getLsbD_eq fun k hk => ?_
  simp only [exponentOf, BitVec.getLsbD_extractLsb', BitVec.getLsbD_append, hk]
  simp [hk]

theorem fractionOf_append : fractionOf (BitVec.ofBool neg ++ E ++ F) = F := by
  refine BitVec.eq_of_getLsbD_eq fun k hk => ?_
  simp only [fractionOf, BitVec.getLsbD_extractLsb', BitVec.getLsbD_append, hk]
  simp [hk]

end assembled

theorem f32_zero (neg : Bool) (D : Nat) : f32 neg 0 D = BitVec.ofBool neg ++ 0#8 ++ 0#23 := by
  cases neg <;> rfl

theorem f32_of_pos (neg : Bool) {q : Nat} (hq : q ≠ 0) (D : Nat) :
    f32 neg q D = BitVec.ofBool neg ++ BitVec.ofNat 8 (q.log2 + 127 - D) ++
      BitVec.ofNat 23 ((q - 2 ^ q.log2) * 2 ^ (23 - q.log2)) :=
  if_neg hq

theorem signBitOf_f32 (neg : Bool) (q D : Nat) : signBitOf (f32 neg q D) = neg := by
  by_cases hq : q = 0
  · rw [hq, f32_zero, signBitOf_append]
  · rw [f32_of_pos neg hq, signBitOf_append]

/-- The leading one of `q` becomes the implicit bit: with it, the fraction is `q` shifted up to 24 bits. -/
theorem fraction_add_implicit_bit {q : Nat} (hq : q ≠ 0) (hlt : q < 2 ^ 24) :
    (q - 2 ^ q.log2) * 2 ^ (23 - q.log2) + 2 ^ 23 = q * 2 ^ (23 - q.log2) := by
  have hlog : q.log2 < 24 := (Nat.log2_lt hq).mpr hlt
  have hpow : 2 ^ q.log2 * 2 ^ (23 - q.log2) = 2 ^ 23 := by
    rw [← pow_add]
    congr 1
    omega
  have hle : 2 ^ q.log2 * 2 ^ (23 - q.log2) ≤ q * 2 ^ (23 - q.log2) :=
    Nat.mul_le_mul_right _ (Nat.log2_self_le hq)
  rw [Nat.sub_mul, ← hpow, Nat.sub_add_cancel hle]

theorem shifted_lt {q : Nat} (hq : q ≠ 0) (hlt : q < 2 ^ 24) : q * 2 ^ (23 - q.log2) < 2 ^ 24 := by
  have hlog : q.log2 < 24 := (Nat.log2_lt hq).mpr hlt
  calc q * 2 ^ (23 - q.log2) < 2 ^ (q.log2 + 1) * 2 ^ (23 - q.log2) := by
        gcongr
        exact Nat.lt_log2_self
    _ = 2 ^ 24 := by
        rw [← pow_add]
        congr 1
        omega

/-- The exponent field does not wrap. -/
theorem toNat_exponentOf_f32 (neg : Bool) {q D : Nat} (hq : q ≠ 0) (hlt : q < 2 ^ 24) :
    (exponentOf (f32 neg q D)).toNat = q.log2 + 127 - D := by
  have hlog : q.log2 < 24 := (Nat.log2_lt hq).mpr hlt
  rw [f32_of_pos neg hq, exponentOf_append, BitVec.toNat_ofNat]
  omega

/-- The exponent field of a nonzero `q` is that of a normal word. -/
theorem exponentOf_f32_ne (neg : Bool) {q D : Nat} (hq : q ≠ 0) (hlt : q < 2 ^ 24) (hD : D ≤ 24) :
    exponentOf (f32 neg q D) ≠ 0 ∧ exponentOf (f32 neg q D) ≠ 255 := by
  have hlog : q.log2 < 24 := (Nat.log2_lt hq).mpr hlt
  rw [Ne, Ne, ← BitVec.toNat_inj, ← BitVec.toNat_inj, toNat_exponentOf_f32 neg hq hlt]
  exact ⟨fun h => by change _ = 0 at h; omega, fun h => by change _ = 255 at h; omega⟩

theorem magnitudeOf_f32 (neg : Bool) {q D : Nat} (hlt : q < 2 ^ 24) (hD : D ≤ 24) :
    magnitudeOf (f32 neg q D) = some (.finite (q / 2 ^ D)) := by
  rw [magnitudeOf_eq_finite_iff]
  by_cases hq : q = 0
  · simp [hq, f32_zero, exponentOf_append, significandOf, fractionOf_append]
  obtain ⟨hE0, hE255⟩ := exponentOf_f32_ne neg hq hlt hD
  have hlog : q.log2 < 24 := (Nat.log2_lt hq).mpr hlt
  have hsig : significandOf (f32 neg q D) = q * 2 ^ (23 - q.log2) := by
    have hfraction := fraction_add_implicit_bit hq hlt
    have hbound := shifted_lt hq hlt
    rw [significandOf, if_neg hE0, f32_of_pos neg hq, fractionOf_append, BitVec.toNat_ofNat,
      Nat.mod_eq_of_lt (by omega)]
    omega
  have hscale : scaleOf (f32 neg q D) = -((23 - q.log2 : Nat) : Int) - D := by
    rw [scaleOf, if_neg hE0, toNat_exponentOf_f32 neg hq hlt]
    omega
  refine ⟨hE255, ?_⟩
  rw [hsig, hscale, zpow_sub₀ two_ne_zero, zpow_neg, zpow_natCast, zpow_natCast]
  push_cast
  field_simp

/-- Settles O45, from the built word's sign bit and its magnitude `q / 2^D`. -/
theorem decodedWordIsExact : Obligations.DecodedWordIsExact := by
  intro neg q D hq hD
  refine ⟨signBitOf_f32 neg q D, ?_⟩
  rw [valueOf_of_magnitudeOf (magnitudeOf_f32 neg hq hD), signBitOf_f32]

end Sys2Proof.Machine

/-! ### The largest magnitude of a configuration (`spec/00_scope.md`, rules R7, R9) -/

namespace Sys2Proof

/-- `MAX_MAGNITUDE` is the largest integer of the two fields, in resolution steps (R7, R123). -/
theorem Params.maxMagnitude_eq (c : Params) : c.maxMagnitude = c.maxQ / 2 ^ c.decimalBits := by
  have hcast : (c.maxQ : ℚ) = 2 ^ c.integralBits * 2 ^ c.decimalBits - 1 := by
    rw [Params.maxQ, Nat.cast_sub Nat.one_le_two_pow, pow_add]
    push_cast
    rfl
  rw [Params.maxMagnitude, hcast]
  field_simp
  ring

theorem Params.maxMagnitude_nonneg (c : Params) : 0 ≤ c.maxMagnitude := by
  rw [Params.maxMagnitude_eq]
  positivity

/-- The integer of the two fields fits in a significand (R9, R129). -/
theorem Params.Legal.lt_of_le_maxQ {c : Params} (hc : c.Legal) {q : Nat} (hq : q ≤ c.maxQ) : q < 2 ^ 24 := by
  obtain ⟨-, -, hwidth, -⟩ := hc
  have hpow : 2 ^ (c.integralBits + c.decimalBits) ≤ 2 ^ 24 := Nat.pow_le_pow_right Nat.two_pos hwidth
  have hpos := Nat.two_pow_pos (c.integralBits + c.decimalBits)
  rw [Params.maxQ] at hq
  omega

theorem Params.Legal.decimalBits_le {c : Params} (hc : c.Legal) : c.decimalBits ≤ 24 := by
  obtain ⟨-, -, hwidth, -⟩ := hc
  omega

end Sys2Proof

/-! ### The quantizer (`spec/43_fixed_point_codec.md`, rules R122 to R125) -/

namespace Sys2Proof.Machine

/-- The integer form of R123 is the floor of the scaled magnitude. -/
theorem scaledFloor_eq_floor (w : Word32) (D : Nat) :
    scaledFloor w D = ⌊(significandOf w * 2 ^ scaleOf w : ℚ) * 2 ^ D⌋₊ := by
  have hscaled : (significandOf w * 2 ^ scaleOf w : ℚ) * 2 ^ D = significandOf w * 2 ^ (scaleOf w + D) := by
    rw [mul_assoc, zpow_add₀ two_ne_zero, zpow_natCast]
  rw [hscaled, scaledFloor]
  cases scaleOf w + D with
  | ofNat sh =>
    rw [Int.ofNat_eq_natCast, zpow_natCast]
    exact_mod_cast (Nat.floor_natCast (R := ℚ) _).symm
  | negSucc k =>
    rw [zpow_negSucc, ← div_eq_mul_inv]
    exact_mod_cast (Nat.floor_div_natCast (significandOf w : ℚ) (2 ^ (k + 1))).symm

theorem quantizedInteger_of_magnitudeOf (c : Params) {w : Word32} {m : ℚ} (h : magnitudeOf w = some (.finite m)) :
    quantizedInteger c w = some (min ⌊m * 2 ^ c.decimalBits⌋₊ c.maxQ) := by
  obtain ⟨-, hm⟩ := magnitudeOf_eq_finite_iff.mp h
  rw [quantizedInteger, classOf_of_magnitudeOf h]
  by_cases hzero : m = 0
  · simp [hzero]
  · simp [hzero, scaledFloor_eq_floor, ← hm]

theorem quantizedInteger_of_inf (c : Params) {w : Word32} (h : classOf w = .inf) :
    quantizedInteger c w = some c.maxQ := by
  rw [quantizedInteger, h]

/-- Every word but a NaN is quantized, and never above the largest integer of the fields (R123, R136). -/
theorem exists_quantizedInteger (c : Params) {w : Word32} (h : classOf w ≠ .nan) :
    ∃ q ≤ c.maxQ, quantizedInteger c w = some q := by
  unfold quantizedInteger
  cases hclass : classOf w with
  | nan => exact absurd hclass h
  | inf => exact ⟨_, le_rfl, rfl⟩
  | zero => exact ⟨_, Nat.zero_le _, rfl⟩
  | finite => exact ⟨_, min_le_right _ _, rfl⟩

/-- The fields are the two digits of the integer in base `2^D` (R123). -/
theorem quantize_of_quantizedInteger {c : Params} {w : Word32} {q : Nat} (h : quantizedInteger c w = some q) :
    quantize c w = some ⟨negOf w, q / 2 ^ c.decimalBits, q % 2 ^ c.decimalBits⟩ := by
  rw [quantize, h, Option.map_some]

theorem floor_scaled_le_maxQ {c : Params} {m : ℚ} (hm : m ≤ c.maxMagnitude) : ⌊m * 2 ^ c.decimalBits⌋₊ ≤ c.maxQ := by
  rw [c.maxMagnitude_eq, le_div_iff₀ (by positivity)] at hm
  exact Nat.floor_le_of_le hm

/-- A magnitude of at most `MAX_MAGNITUDE` is truncated to the resolution (R122, R123). -/
theorem quantizedInteger_of_le {c : Params} {w : Word32} {m : ℚ} (h : magnitudeOf w = some (.finite m))
    (hm : m ≤ c.maxMagnitude) : quantizedInteger c w = some ⌊m * 2 ^ c.decimalBits⌋₊ := by
  rw [quantizedInteger_of_magnitudeOf c h, min_eq_left (floor_scaled_le_maxQ hm)]

/-- A magnitude of at least `MAX_MAGNITUDE` is clamped (R122). -/
theorem quantizedInteger_of_ge {c : Params} {w : Word32} {m : ℚ} (h : magnitudeOf w = some (.finite m))
    (hm : c.maxMagnitude ≤ m) : quantizedInteger c w = some c.maxQ := by
  have hle : c.maxQ ≤ ⌊m * 2 ^ c.decimalBits⌋₊ := by
    rw [c.maxMagnitude_eq, div_le_iff₀ (by positivity)] at hm
    exact Nat.le_floor hm
  rw [quantizedInteger_of_magnitudeOf c h, min_eq_right hle]

/-- Every integer of the two fields is the exact magnitude of a word (R129). -/
theorem magnitudeOf_f32_of_le_maxQ {c : Params} (hc : c.Legal) (neg : Bool) {q : Nat} (hq : q ≤ c.maxQ) :
    magnitudeOf (f32 neg q c.decimalBits) = some (.finite (q / 2 ^ c.decimalBits)) :=
  magnitudeOf_f32 neg (hc.lt_of_le_maxQ hq) hc.decimalBits_le

/-! ### The fields of one chunk (R126, R127, R128) -/

/-- The whole chunk lies in the store. -/
theorem chunk_le_length {c : Params} {V : Store} {n : Nat} (hV : V.length = c.nv) (hn : n < c.maxSize) :
    (n + 1) * c.chunkBits ≤ V.length := by
  rw [hV]
  exact Nat.mul_le_mul_right _ hn

/-- The sign cell, if there is one, and the two fields fill the chunk (R7). -/
theorem chunk_end (c : Params) (n : Nat) :
    (n + 1) * c.chunkBits = n * c.chunkBits + c.signWidth + c.integralBits + c.decimalBits := by
  rw [Nat.succ_mul, Params.chunkBits]
  omega

theorem signWidth_of_true {c : Params} (h : c.signBit = true) : c.signWidth = 1 := by
  rw [Params.signWidth, h]
  rfl

theorem length_ite_setCell (V : Store) (S : Bool) (p : Nat) (b : Bool) :
    (if S then setCell V p b else V).length = V.length := by
  rw [apply_ite List.length, length_setCell, ite_self]

/-- The three writes of a chunk do not overlap, so each field keeps what was written to it (R127). -/
theorem writeChunk_holds {c : Params} {V : Store} {n : Nat} (hV : (n + 1) * c.chunkBits ≤ V.length) (z : Quantized) :
    ChunkHolds c (writeChunk c V n z) n z := by
  rw [chunk_end] at hV
  refine ⟨fun hsign => ?_, fun j hj => ?_, fun j hj => ?_⟩
  · have hwidth := signWidth_of_true hsign
    simp only [writeChunk, intPos, fracPos, chunkBase, hsign, if_true]
    rw [cell_fieldWrite_outside _ _ (.inl (by omega)), cell_fieldWrite_outside _ _ (.inl (by omega)),
      cell_setCell_same (by omega)]
  · simp only [writeChunk, intPos, fracPos, chunkBase]
    rw [cell_fieldWrite_outside _ _ (.inl (by omega)), cell_fieldWrite_inside _ _ hj]
    rw [length_ite_setCell]
    exact (Nat.le_add_right _ _).trans hV
  · simp only [writeChunk, intPos, fracPos, chunkBase]
    rw [cell_fieldWrite_inside _ _ hj]
    rwa [length_fieldWrite, length_ite_setCell]

/-- The frame of a chunk write (R127). -/
theorem writeChunk_others (c : Params) (V : Store) (n : Nat) (z : Quantized) :
    OtherChunksKept c V (writeChunk c V n z) n := by
  refine ⟨length_writeChunk c V n z, fun p hp => ?_⟩
  rw [chunk_end] at hp
  simp only [writeChunk, intPos, fracPos, chunkBase]
  rw [cell_fieldWrite_outside _ _ (by omega), cell_fieldWrite_outside _ _ (by omega)]
  split
  next hsign =>
    have hwidth := signWidth_of_true hsign
    exact cell_setCell_ne V (by omega) _
  next => rfl

theorem encodeChunk_of_quantizedInteger {c : Params} {w : Word32} {q : Nat} (V : Store) (n : Nat)
    (h : quantizedInteger c w = some q) : encodeChunk c V n w =
      some (writeChunk c V n ⟨negOf w, q / 2 ^ c.decimalBits, q % 2 ^ c.decimalBits⟩) := by
  rw [encodeChunk, quantize_of_quantizedInteger h, Option.map_some]

/-- Settles O44, from the three writes of a chunk and their frame. -/
theorem encodeWritesItsChunk : Obligations.EncodeWritesItsChunk := by
  intro c V n w hV hn hw
  obtain ⟨q, -, hq⟩ := exists_quantizedInteger c hw
  have hz := quantize_of_quantizedInteger hq
  exact ⟨_, _, hz, encodeChunk_of_quantizedInteger V n hq, writeChunk_holds (chunk_le_length hV hn) _,
    writeChunk_others c V n _⟩

/-- A field is the number whose bits its cells are. -/
theorem fieldRead_eq_of_testBit {X : Store} {b w u : Nat} (hu : u < 2 ^ w)
    (h : ∀ j < w, cell X (b + j) = u.testBit j) : fieldRead X b w = u := by
  rw [fieldRead_eq_fieldSum]
  refine Nat.eq_of_testBit_eq fun j => ?_
  rcases Nat.lt_or_ge j w with hj | hj
  · rw [testBit_fieldSum X b hj, h j hj]
  · have hpow : 2 ^ w ≤ 2 ^ j := Nat.pow_le_pow_right Nat.two_pos hj
    rw [Nat.testBit_lt_two_pow ((fieldSum_lt X b w).trans_le hpow), Nat.testBit_lt_two_pow (hu.trans_le hpow)]

theorem div_lt_of_le_maxQ {c : Params} {q : Nat} (hq : q ≤ c.maxQ) : q / 2 ^ c.decimalBits < 2 ^ c.integralBits := by
  have hpos := Nat.two_pow_pos (c.integralBits + c.decimalBits)
  rw [Params.maxQ] at hq
  rw [Nat.div_lt_iff_lt_mul (Nat.two_pow_pos _), ← pow_add]
  omega

theorem chunkQ_le_maxQ (c : Params) (V : Store) (n : Nat) : chunkQ c V n ≤ c.maxQ := by
  have hi := fieldSum_lt V (intPos c n) c.integralBits
  have hd := fieldSum_lt V (fracPos c n) c.decimalBits
  rw [chunkQ, Params.maxQ, fieldRead_eq_fieldSum, fieldRead_eq_fieldSum, pow_add]
  have : (fieldSum V (intPos c n) c.integralBits + 1) * 2 ^ c.decimalBits ≤ 2 ^ c.integralBits * 2 ^ c.decimalBits :=
    Nat.mul_le_mul_right _ hi
  rw [Nat.succ_mul] at this
  omega

/-- A chunk decodes to the sign and the integer whose fields it holds (R128). -/
theorem decodeChunk_of_holds {c : Params} {W : Store} {n q : Nat} {neg : Bool} (hq : q ≤ c.maxQ)
    (h : ChunkHolds c W n ⟨neg, q / 2 ^ c.decimalBits, q % 2 ^ c.decimalBits⟩) :
    decodeChunk c W n = f32 (c.signBit && neg) q c.decimalBits := by
  obtain ⟨hsign, hi, hd⟩ := h
  have hneg : chunkNeg c W n = (c.signBit && neg) := by
    rw [chunkNeg, chunkBase]
    cases hS : c.signBit with
    | false => rfl
    | true => rw [hsign hS]
  have hmag : chunkQ c W n = q := by
    rw [chunkQ, intPos, fracPos, chunkBase, fieldRead_eq_of_testBit (div_lt_of_le_maxQ hq) hi,
      fieldRead_eq_of_testBit (Nat.mod_lt _ (Nat.two_pow_pos _)) hd, Nat.mul_comm, Nat.div_add_mod]
  rw [decodeChunk, hneg, hmag]

/-- What decoding a chunk gives after a word was encoded into it (R127, R128). -/
theorem decodeChunk_encodeChunk {c : Params} {V W : Store} {n q : Nat} {w : Word32} (hV : V.length = c.nv)
    (hn : n < c.maxSize) (hle : q ≤ c.maxQ) (hq : quantizedInteger c w = some q) (hW : encodeChunk c V n w = some W) :
    decodeChunk c W n = f32 (c.signBit && negOf w) q c.decimalBits := by
  rw [encodeChunk_of_quantizedInteger V n hq, Option.some.injEq] at hW
  subst hW
  exact decodeChunk_of_holds hle (writeChunk_holds (chunk_le_length hV hn) _)

end Sys2Proof.Machine

/-! ### Encoding, then decoding (`spec/43_fixed_point_codec.md`, rules R130 to R133) -/

namespace Sys2Proof.Machine

theorem signBitOf_decodeChunk (c : Params) (V : Store) (n : Nat) : signBitOf (decodeChunk c V n) = chunkNeg c V n :=
  signBitOf_f32 _ _ _

theorem magnitudeOf_decodeChunk {c : Params} (hc : c.Legal) (V : Store) (n : Nat) :
    magnitudeOf (decodeChunk c V n) = some (.finite (chunkQ c V n / 2 ^ c.decimalBits)) :=
  magnitudeOf_f32_of_le_maxQ hc _ (chunkQ_le_maxQ c V n)

theorem chunkQ_div_le_maxMagnitude (c : Params) (V : Store) (n : Nat) :
    (chunkQ c V n : ℚ) / 2 ^ c.decimalBits ≤ c.maxMagnitude := by
  have hq : chunkQ c V n ≤ c.maxQ := chunkQ_le_maxQ c V n
  rw [c.maxMagnitude_eq]
  gcongr

/-- Settles O46, from the stored integer fitting in the two fields. -/
theorem decodeIsTotal : Obligations.DecodeIsTotal := by
  intro c V n hc
  have hmag := magnitudeOf_decodeChunk hc V n
  refine ⟨?_, ⟨_, hmag, magnitudeOf_nonneg hmag, chunkQ_div_le_maxMagnitude c V n⟩, fun hsign => ?_⟩
  · rw [classOf_of_magnitudeOf hmag]
    split <;> simp
  · rw [signBitOf_decodeChunk, chunkNeg, hsign, Bool.false_and]

/-- Settles O49, from the quantized integer being the floor of the scaled magnitude. -/
theorem truncationBound : Obligations.TruncationBound := by
  intro c V W n w m hc hV hn hm hle hW
  have hfits : ⌊m * 2 ^ c.decimalBits⌋₊ ≤ c.maxQ := floor_scaled_le_maxQ hle
  have hdecode := decodeChunk_encodeChunk hV hn hfits (quantizedInteger_of_le hm hle) hW
  have hpos : (0 : ℚ) < 2 ^ c.decimalBits := by positivity
  have hnonneg : 0 ≤ m * 2 ^ c.decimalBits := mul_nonneg (magnitudeOf_nonneg hm) hpos.le
  refine ⟨_, by rw [hdecode]; exact magnitudeOf_f32_of_le_maxQ hc _ hfits, ?_, ?_, ?_⟩
  · rw [natCast_floor_eq_intCast_floor hnonneg]
  · rw [sub_nonneg, div_le_iff₀ hpos]
    exact Nat.floor_le hnonneg
  · rw [sub_lt_iff_lt_add, ← add_div, lt_div_iff₀ hpos, add_comm]
    exact Nat.lt_floor_add_one _

/-- A word of magnitude 0 is one of the two zeros. -/
theorem eq_zero_word_of_magnitudeOf {w : Word32} (h : magnitudeOf w = some (.finite 0)) :
    w = f32 (signBitOf w) 0 0 :=
  eq_of_magnitudeOf_eq (signBitOf_f32 _ 0 0).symm h (by simpa using magnitudeOf_f32 (signBitOf w) (q := 0) (D := 0))

theorem magnitudeOf_negative_zero : magnitudeOf 0x80000000 = some (.finite 0) := by
  have h := magnitudeOf_f32 true (q := 0) (D := 0) (by decide) (by decide)
  rwa [Nat.cast_zero, zero_div] at h

/-- Settles O47: a zero comes back as the positive zero, and any other word has the sign and the magnitude of the
decoded word, which determine it. -/
theorem representableWordsRoundTrip : Obligations.RepresentableWordsRoundTrip := by
  intro c V n w m k hc hV hn hm hle hk hsign
  have hq := quantizedInteger_of_le hm hle
  have hfits := floor_scaled_le_maxQ hle
  rw [hk, Nat.floor_natCast] at hq hfits
  have hW := encodeChunk_of_quantizedInteger V n hq
  refine ⟨_, hW, ?_⟩
  rw [decodeChunk_encodeChunk hV hn hfits hq hW, negOf_of_magnitudeOf hm]
  rcases eq_or_ne m 0 with rfl | hne
  · obtain rfl : k = 0 := by simpa using hk.symm
    rw [eq_zero_word_of_magnitudeOf hm]
    cases signBitOf w <;> simp [f32_zero]
  · have hnonzero : w ≠ 0x80000000 := by
      rintro rfl
      rw [magnitudeOf_negative_zero] at hm
      simp [hne.symm] at hm
    have hkept : (c.signBit && (signBitOf w && decide (m ≠ 0))) = signBitOf w := by
      rcases hsign with h | h <;> simp [h, hne]
    rw [if_neg hnonzero, hkept]
    refine eq_of_magnitudeOf_eq (signBitOf_f32 _ _ _) (magnitudeOf_f32_of_le_maxQ hc _ hfits) ?_
    rw [hm, ← hk, mul_div_cancel_right₀ _ (by positivity)]

/-- The largest integer of the two fields has all ones in both (R132). -/
theorem maxQ_fields (c : Params) :
    c.maxQ / 2 ^ c.decimalBits = 2 ^ c.integralBits - 1 ∧ c.maxQ % 2 ^ c.decimalBits = 2 ^ c.decimalBits - 1 := by
  have hd := Nat.two_pow_pos c.decimalBits
  have hi := Nat.two_pow_pos c.integralBits
  have hsplit : c.maxQ = 2 ^ c.decimalBits - 1 + 2 ^ c.decimalBits * (2 ^ c.integralBits - 1) := by
    have := Nat.le_mul_of_pos_right (2 ^ c.decimalBits) hi
    rw [Params.maxQ, pow_add, Nat.mul_sub_one, Nat.mul_comm (2 ^ c.integralBits)]
    omega
  have hlt : 2 ^ c.decimalBits - 1 < 2 ^ c.decimalBits := by omega
  rw [hsplit, Nat.add_mul_div_left _ _ hd, Nat.add_mul_mod_self_left, Nat.mod_eq_of_lt hlt, Nat.div_eq_of_lt hlt,
    Nat.zero_add]
  exact ⟨rfl, rfl⟩

/-- Every magnitude above `MAX_MAGNITUDE` is clamped, and its word is no zero (R122, R132). -/
theorem quantizedInteger_of_overflow {c : Params} {w : Word32}
    (h : classOf w = .inf ∨ ∃ m : ℚ, magnitudeOf w = some (.finite m) ∧ c.maxMagnitude < m) :
    negOf w = signBitOf w ∧ quantizedInteger c w = some c.maxQ := by
  rcases h with hinf | ⟨m, hm, hlt⟩
  · exact ⟨by simp [negOf, hinf], quantizedInteger_of_inf c hinf⟩
  · have hne : m ≠ 0 := (c.maxMagnitude_nonneg.trans_lt hlt).ne'
    exact ⟨by simp [negOf_of_magnitudeOf hm, hne], quantizedInteger_of_ge hm hlt.le⟩

/-- What a chunk decodes to after a clamped magnitude was encoded into it (R132). -/
theorem decodeChunk_of_clamped {c : Params} {V W : Store} {n : Nat} {w : Word32} (hc : c.Legal) (hV : V.length = c.nv)
    (hn : n < c.maxSize) (hq : quantizedInteger c w = some c.maxQ) (hW : encodeChunk c V n w = some W) :
    magnitudeOf (decodeChunk c W n) = some (.finite c.maxMagnitude) ∧
      signBitOf (decodeChunk c W n) = (c.signBit && negOf w) := by
  rw [decodeChunk_encodeChunk hV hn le_rfl hq hW, magnitudeOf_f32_of_le_maxQ hc _ le_rfl, c.maxMagnitude_eq, signBitOf_f32]
  exact ⟨rfl, rfl⟩

/-- Settles O48, from the clamped integer; where `MAX_MAGNITUDE` is 0 the two words differ in the sign of a zero, and
their values are equal. -/
theorem overflowSaturates : Obligations.OverflowSaturates := by
  intro c V n w hc hV hn hover
  obtain ⟨hneg, hq⟩ := quantizedInteger_of_overflow hover
  obtain ⟨hi, hd⟩ := maxQ_fields c
  obtain ⟨W, hW⟩ : ∃ W, encodeChunk c V n w = some W := ⟨_, encodeChunk_of_quantizedInteger V n hq⟩
  obtain ⟨hmag, hsign⟩ := decodeChunk_of_clamped hc hV hn hq hW
  rw [hneg] at hsign
  refine ⟨by rw [quantize_of_quantizedInteger hq, hneg, hi, hd], _, hW, hmag, hsign, fun w' W' hm' hs' hW' => ?_⟩
  obtain ⟨hmag', hsign'⟩ := decodeChunk_of_clamped hc hV hn (quantizedInteger_of_ge hm' le_rfl) hW'
  rw [valueOf_of_magnitudeOf hmag', valueOf_of_magnitudeOf hmag, hsign', hsign, negOf_of_magnitudeOf hm', hs']
  by_cases hzero : c.maxMagnitude = 0 <;> simp [hzero]

/-! ### Decoding, then encoding (R139) -/

theorem fieldRead_setCell_below (X : Store) {p b : Nat} (h : p < b) (v : Bool) (w : Nat) :
    fieldRead (setCell X p v) b w = fieldRead X b w := by
  simp only [fieldRead_eq_fieldSum, fieldSum]
  exact Finset.sum_congr rfl fun j _ => by rw [cell_setCell_ne X (by omega)]

theorem fieldWrite_fieldRead {X : Store} {b w : Nat} (hX : b + w ≤ X.length) :
    fieldWrite X b w (fieldRead X b w) = X := by
  refine store_ext (length_fieldWrite X b w _) fun p _ => ?_
  by_cases hp : b ≤ p ∧ p < b + w
  · obtain ⟨hbase, hend⟩ := hp
    obtain ⟨j, rfl⟩ := Nat.exists_eq_add_of_le hbase
    have hj : j < w := by omega
    rw [cell_fieldWrite_inside hX _ hj, fieldRead_eq_fieldSum, testBit_fieldSum X b hj]
  · exact cell_fieldWrite_outside X _ (by omega)

theorem setCell_cell (X : Store) (p : Nat) : setCell X p (cell X p) = X := by
  refine store_ext (length_setCell X p _) fun k hk => ?_
  rw [length_setCell] at hk
  rcases eq_or_ne k p with rfl | hne
  · exact cell_setCell_same hk _
  · exact cell_setCell_ne X hne _

/-- Writing the stored fields back can change the sign cell only. -/
theorem writeChunk_stored_fields {c : Params} {V : Store} {n : Nat} (hV : (n + 1) * c.chunkBits ≤ V.length)
    (neg : Bool) :
    writeChunk c V n ⟨neg, fieldRead V (intPos c n) c.integralBits, fieldRead V (fracPos c n) c.decimalBits⟩ =
      if c.signBit then setCell V (chunkBase c n) neg else V := by
  rw [chunk_end] at hV
  have hi : intPos c n + c.integralBits ≤ V.length := by
    rw [intPos, chunkBase]
    omega
  have hd : fracPos c n + c.decimalBits ≤ V.length := hV
  cases hS : c.signBit with
  | false =>
    simp only [writeChunk, hS, Bool.false_eq_true, if_false]
    rw [fieldWrite_fieldRead hi, fieldWrite_fieldRead hd]
  | true =>
    have hbelow : chunkBase c n < intPos c n := by
      rw [intPos, signWidth_of_true hS]
      omega
    have hbelow' : chunkBase c n < fracPos c n := hbelow.trans_le (Nat.le_add_right _ _)
    rw [← length_setCell V (chunkBase c n) neg] at hi hd
    simp only [writeChunk, hS, if_true]
    rw [← fieldRead_setCell_below V hbelow neg, ← fieldRead_setCell_below V hbelow' neg, fieldWrite_fieldRead hi,
      fieldWrite_fieldRead hd]

/-- The decoded word is quantized back to the stored integer (R131, R139). -/
theorem encodeChunk_decodeChunk {c : Params} {V : Store} {n : Nat} (hc : c.Legal) (hV : V.length = c.nv)
    (hn : n < c.maxSize) : encodeChunk c V n (decodeChunk c V n) =
      some (if c.signBit then setCell V (chunkBase c n) (negOf (decodeChunk c V n)) else V) := by
  have hq : quantizedInteger c (decodeChunk c V n) = some (chunkQ c V n) := by
    rw [quantizedInteger_of_le (magnitudeOf_decodeChunk hc V n) (chunkQ_div_le_maxMagnitude c V n),
      div_mul_cancel₀ _ (by positivity), Nat.floor_natCast]
  have hd : fieldRead V (fracPos c n) c.decimalBits < 2 ^ c.decimalBits := by
    rw [fieldRead_eq_fieldSum]
    exact fieldSum_lt V _ _
  rw [encodeChunk_of_quantizedInteger V n hq, ← writeChunk_stored_fields (chunk_le_length hV hn), chunkQ,
    Nat.add_comm, Nat.add_mul_div_right _ _ (Nat.two_pow_pos _), Nat.div_eq_of_lt hd, Nat.zero_add,
    Nat.add_mul_mod_self_right, Nat.mod_eq_of_lt hd]

/-- Only a stored negative zero is not quantized with its stored sign (R139). -/
theorem negOf_eq_signBitOf {w : Word32} {m : ℚ} (h : magnitudeOf w = some (.finite m)) (hne : w ≠ 0x80000000) :
    negOf w = signBitOf w := by
  rw [negOf_of_magnitudeOf h]
  rcases eq_or_ne m 0 with rfl | hm
  · cases hs : signBitOf w with
    | false => rfl
    | true => exact absurd (eq_of_magnitudeOf_eq hs h magnitudeOf_negative_zero) hne
  · simp [hm]

/-- Settles O51, from the stored fields being written back and the sign cell with the sign of the decoded word. -/
theorem reencodeKeepsChunk : Obligations.ReencodeKeepsChunk := by
  intro c V n hc hV hn
  rw [encodeChunk_decodeChunk hc hV hn]
  by_cases hzero : decodeChunk c V n = 0x80000000
  · have hS : c.signBit = true := by
      have hs : (c.signBit && cell V (chunkBase c n)) = true := by
        rw [← chunkNeg, ← signBitOf_decodeChunk, hzero]
        rfl
      exact (Bool.and_eq_true_iff.mp hs).left
    rw [if_pos hS, if_pos hzero, hzero]
    rfl
  · rw [if_neg hzero, negOf_eq_signBitOf (magnitudeOf_decodeChunk hc V n) hzero, signBitOf_decodeChunk, chunkNeg]
    cases c.signBit with
    | false => rfl
    | true => rw [if_pos rfl, Bool.true_and, setCell_cell]

end Sys2Proof.Machine

/-! ### The commands on the Sample Vector (`spec/44_sample_vector.md`, rules R140 to R143) -/

namespace Sys2Proof.Machine

theorem atEntry_of_lt {n : Word64} {s : State} (hn : n.toNat < s.size) (body : Nat → Result) :
    atEntry n s body = body n.toNat := by
  rcases atEntry_cases n s body with ⟨-, h⟩ | ⟨hle, -⟩
  · exact h
  · omega

theorem atEntry_of_le {n : Word64} {s : State} (hn : s.size ≤ n.toNat) (body : Nat → Result) :
    atEntry n s body = raise .boundsError s := by
  rcases atEntry_cases n s body with ⟨hlt, -⟩ | ⟨-, h⟩
  · omega
  · exact h

theorem atFreeSlot_of_lt {s : State} (hroom : s.size < s.cfg.maxSize) (body : Nat → Result) :
    atFreeSlot s body = body s.size := by
  rcases atFreeSlot_cases s body with ⟨-, h⟩ | ⟨hle, -⟩
  · exact h
  · omega

theorem atFreeSlot_of_le {s : State} (hfull : s.cfg.maxSize ≤ s.size) (body : Nat → Result) :
    atFreeSlot s body = raise .capacityError s := by
  rcases atFreeSlot_cases s body with ⟨hlt, -⟩ | ⟨-, h⟩
  · omega
  · exact h

theorem quantize_of_nan (c : Params) {w : Word32} (h : classOf w = .nan) : quantize c w = none := by
  rw [quantize, quantizedInteger, h]
  rfl

theorem ne_nan_of_quantize {c : Params} {w : Word32} {z : Quantized} (h : quantize c w = some z) :
    classOf w ≠ .nan := by
  intro hnan
  rw [quantize_of_nan c hnan] at h
  contradiction

/-- The fields of a quantized sample are the two digits of an integer that fits (R123, R125). -/
theorem exists_quantize (c : Params) {w : Word32} (h : classOf w ≠ .nan) :
    ∃ q ≤ c.maxQ, quantize c w = some ⟨negOf w, q / 2 ^ c.decimalBits, q % 2 ^ c.decimalBits⟩ := by
  obtain ⟨q, hle, hq⟩ := exists_quantizedInteger c h
  exact ⟨q, hle, quantize_of_quantizedInteger hq⟩

theorem withEncoded_of_quantize {n : Nat} {w : Word32} {s : State} {z : Quantized} (hz : quantize s.cfg w = some z)
    (body : Store → Result) : withEncoded n w s body = body (writeChunk s.cfg s.v n z) := by
  simp only [withEncoded, encodeChunk, hz, Option.map_some]

theorem withEncoded_of_nan {w : Word32} (hw : classOf w = .nan) (n : Nat) (s : State) (body : Store → Result) :
    withEncoded n w s body = raise .invalidSample s := by
  simp only [withEncoded, encodeChunk, quantize_of_nan s.cfg hw, Option.map_none]

theorem exec_vappend_eq_atFreeSlot (w : Word32) (s : State) : exec (.vappend w) s =
    atFreeSlot s fun n => withEncoded n w s fun V => done 0 ((s.setVector V).setSize (n + 1)) := rfl

theorem exec_vget_eq_atEntry (n : Word64) (s : State) :
    exec (.vget n) s = atEntry n s fun n => done (resOfSample (decodeChunk s.cfg s.v n)) s := rfl

theorem exec_vset_eq_atEntry (n : Word64) (w : Word32) (s : State) :
    exec (.vset n w) s = atEntry n s fun n => withEncoded n w s fun V => done 0 (s.setVector V) := rfl

theorem exec_vappend_full {s : State} (hfull : s.cfg.maxSize ≤ s.size) (w : Word32) :
    exec (.vappend w) s = raise .capacityError s := by
  rw [exec_vappend_eq_atFreeSlot, atFreeSlot_of_le hfull]

theorem exec_vappend_nan {s : State} {w : Word32} (hroom : s.size < s.cfg.maxSize) (hw : classOf w = .nan) :
    exec (.vappend w) s = raise .invalidSample s := by
  rw [exec_vappend_eq_atFreeSlot, atFreeSlot_of_lt hroom, withEncoded_of_nan hw]

theorem exec_vappend {s : State} {w : Word32} {z : Quantized} (hroom : s.size < s.cfg.maxSize)
    (hz : quantize s.cfg w = some z) :
    exec (.vappend w) s = done 0 ((s.setVector (writeChunk s.cfg s.v s.size z)).setSize (s.size + 1)) := by
  rw [exec_vappend_eq_atFreeSlot, atFreeSlot_of_lt hroom, withEncoded_of_quantize hz]

theorem exec_vget_outside {s : State} {n : Word64} (hn : s.size ≤ n.toNat) :
    exec (.vget n) s = raise .boundsError s := by
  rw [exec_vget_eq_atEntry, atEntry_of_le hn]

theorem exec_vget {s : State} {n : Word64} (hn : n.toNat < s.size) :
    exec (.vget n) s = done (resOfSample (decodeChunk s.cfg s.v n.toNat)) s := by
  rw [exec_vget_eq_atEntry, atEntry_of_lt hn]

theorem exec_vset_outside {s : State} {n : Word64} (hn : s.size ≤ n.toNat) (w : Word32) :
    exec (.vset n w) s = raise .boundsError s := by
  rw [exec_vset_eq_atEntry, atEntry_of_le hn]

theorem exec_vset_nan {s : State} {n : Word64} {w : Word32} (hn : n.toNat < s.size) (hw : classOf w = .nan) :
    exec (.vset n w) s = raise .invalidSample s := by
  rw [exec_vset_eq_atEntry, atEntry_of_lt hn, withEncoded_of_nan hw]

theorem exec_vset {s : State} {n : Word64} {w : Word32} {z : Quantized} (hn : n.toNat < s.size)
    (hz : quantize s.cfg w = some z) :
    exec (.vset n w) s = done 0 (s.setVector (writeChunk s.cfg s.v n.toNat z)) := by
  rw [exec_vset_eq_atEntry, atEntry_of_lt hn, withEncoded_of_quantize hz]

theorem exec_vsize (s : State) : exec .vsize s = done (resOfNat s.size) s := rfl

/-- `size` is at most `MAX_SIZE`, so it fits in `res` (R9, R143). -/
theorem toNat_resOfNat_size {s : State} (hc : s.cfg.Legal) (hsize : s.size ≤ s.cfg.maxSize) :
    (resOfNat s.size).toNat = s.size := by
  obtain ⟨-, hmax, -⟩ := hc
  rw [resOfNat, BitVec.toNat_ofNat, Nat.mod_eq_of_lt (by omega)]

/-- Settles O55, from `size` being within `MAX_SIZE`. -/
theorem vsizeAnswersSize : Obligations.VsizeAnswersSize := by
  intro s hs
  obtain ⟨hc, -, -, -, hsize⟩ := hs
  obtain ⟨t, hdone, hanswered⟩ := done_onlyAnswered (resOfNat s.size) s
  exact ⟨t, _, (exec_vsize s).trans hdone, hanswered, toNat_resOfNat_size hc hsize⟩

/-- Settles O53, from the decoded chunk with its fields as the sums of R13. -/
theorem vgetDecodesEntry : Obligations.VgetDecodesEntry := by
  intro s n
  refine ⟨fun hn => ?_, fun _ hn => ?_⟩
  · rw [exec_vget_outside hn]
    exact raise_onlyAnswered .boundsError s
  · obtain ⟨t, hdone, hanswered⟩ := done_onlyAnswered (resOfSample (decodeChunk s.cfg s.v n.toNat)) s
    refine ⟨t, _, (exec_vget hn).trans hdone, hanswered, ?_⟩
    rw [resOfSample, decodeChunk, chunkNeg, chunkQ, fieldRead_eq_fieldSum, fieldRead_eq_fieldSum, intPos, fracPos,
      chunkBase]

/-- Settles O52, from the capacity check, the sample check and the chunk write. -/
theorem vappendWritesNextChunk : Obligations.VappendWritesNextChunk := by
  intro s w
  refine ⟨fun hfull => ?_, fun hroom hw => ?_, fun hs hroom hw => ?_⟩
  · rw [exec_vappend_full hfull]
    exact raise_onlyAnswered .capacityError s
  · rw [exec_vappend_nan hroom hw]
    exact raise_onlyAnswered .invalidSample s
  · obtain ⟨-, -, -, hlen, -⟩ := hs
    obtain ⟨q, -, hz⟩ := exists_quantize s.cfg hw
    exact ⟨_, _, (exec_vappend hroom hz).trans (done_eq _ _), hz, ⟨rfl, rfl, rfl, rfl⟩, rfl, rfl,
      writeChunk_holds (chunk_le_length hlen hroom) _, writeChunk_others _ _ _ _⟩

/-- Settles O54, from the entry check, the sample check and the chunk write; an entry below `size` has its whole chunk
in `V`. -/
theorem vsetRewritesEntry : Obligations.VsetRewritesEntry := by
  intro s n w
  refine ⟨fun hn => ?_, fun hn hw => ?_, fun hs hn hw => ?_⟩
  · rw [exec_vset_outside hn]
    exact raise_onlyAnswered .boundsError s
  · rw [exec_vset_nan hn hw]
    exact raise_onlyAnswered .invalidSample s
  · obtain ⟨-, -, -, hlen, hsize⟩ := hs
    obtain ⟨q, -, hz⟩ := exists_quantize s.cfg hw
    exact ⟨_, _, (exec_vset hn hz).trans (done_eq _ _), hz, ⟨rfl, rfl, rfl, rfl⟩, rfl, rfl,
      writeChunk_holds (chunk_le_length hlen (hn.trans_le hsize)) _, writeChunk_others _ _ _ _⟩

end Sys2Proof.Machine

/-! ### What any command does to the Sample Vector (rules R22, R26, R144, R145) -/

namespace Sys2Proof.Machine

/-- The command answers, and leaves the vector's store and `size` as they are. -/
def KeepsVector (s : State) (r : Result) : Prop := ∃ t a, r = .next t ∧ Answered s t a ∧ VectorKept s t

theorem keepsVector_done (x : Word64) (s : State) : KeepsVector s (done x s) :=
  ⟨_, ⟨.ok, x⟩, done_eq x s, ⟨rfl, rfl, rfl, rfl⟩, rfl, rfl⟩

theorem keepsVector_done_setStore (x : Word64) (s : State) (d : StoreIdx) (X : Store) :
    KeepsVector s (done x (s.setStore d X)) :=
  ⟨_, ⟨.ok, x⟩, done_eq x _, ⟨rfl, rfl, rfl, rfl⟩, rfl, rfl⟩

theorem keepsVector_raise (e : Err) (s : State) : KeepsVector s (raise e s) :=
  ⟨_, ⟨.err e, 0⟩, raise_eq e s, ⟨rfl, rfl, rfl, rfl⟩, rfl, rfl⟩

theorem keepsVector_legalStores (ks : List StoreIdx) {s : State} {body : Result} (h : KeepsVector s body) :
    KeepsVector s (legalStores ks s body) := by
  rcases legalStores_cases ks s body with ⟨-, heq⟩ | ⟨-, heq⟩ <;> rw [heq]
  · exact h
  · exact keepsVector_raise _ s

theorem keepsVector_atPosition (p : Word64) {s : State} {body : Nat → Result} (h : ∀ k, KeepsVector s (body k)) :
    KeepsVector s (atPosition p s body) := by
  rcases atPosition_cases p s body with ⟨-, heq⟩ | ⟨-, heq⟩ <;> rw [heq]
  · exact h _
  · exact keepsVector_raise _ s

theorem keepsVector_atEntry (n : Word64) {s : State} {body : Nat → Result} (h : ∀ k, KeepsVector s (body k)) :
    KeepsVector s (atEntry n s body) := by
  rcases atEntry_cases n s body with ⟨-, heq⟩ | ⟨-, heq⟩ <;> rw [heq]
  · exact h _
  · exact keepsVector_raise _ s

/-- Only VAPPEND and VSET write the vector (R23). -/
theorem exec_keepsVector {i : Instr} (happend : i.opcode ≠ .vappend) (hset : i.opcode ≠ .vset) (s : State) :
    KeepsVector s (exec i s) := by
  cases i with
  | bzero | bldu | bnot | band | bor | bxor | banda | bora | bxora =>
    exact keepsVector_legalStores _ (keepsVector_done_setStore _ s _ _)
  | beq | ball | bany | bnone | bcount => exact keepsVector_legalStores _ (keepsVector_done _ s)
  | bget | btest => exact keepsVector_legalStores _ (keepsVector_atPosition _ fun _ => keepsVector_done _ s)
  | bset => exact keepsVector_legalStores _ (keepsVector_atPosition _ fun _ => keepsVector_done_setStore _ s _ _)
  | btou sa =>
    refine keepsVector_legalStores _ ?_
    split
    · exact keepsVector_done _ s
    · exact keepsVector_raise _ s
  | vget n => exact keepsVector_atEntry n fun _ => keepsVector_done _ s
  | vsize => exact keepsVector_done _ s
  | vappend => exact absurd rfl happend
  | vset => exact absurd rfl hset

/-- The three things a command that is answered with `a` can do to the Sample Vector: keep it, append an entry, rewrite one
(R26, R140, R142). -/
inductive VectorEffect (s t : State) (a : Response) : Instr → Prop
  | kept {i : Instr} (hkept : VectorKept s t) (hno : i.opcode = .vappend → a.status ≠ .ok) : VectorEffect s t a i
  | appended {w : Word32} {z : Quantized} (hroom : s.size < s.cfg.maxSize) (hz : quantize s.cfg w = some z)
      (hv : t.v = writeChunk s.cfg s.v s.size z) (hsize : t.size = s.size + 1) (hok : a.status = .ok) :
      VectorEffect s t a (.vappend w)
  | rewrote {n : Word64} {w : Word32} {z : Quantized} (hn : n.toNat < s.size) (hz : quantize s.cfg w = some z)
      (hv : t.v = writeChunk s.cfg s.v n.toNat z) (hsize : t.size = s.size) : VectorEffect s t a (.vset n w)

theorem raise_vectorEffect (e : Err) (s : State) (i : Instr) :
    ∃ t a, raise e s = .next t ∧ Answered s t a ∧ VectorEffect s t a i :=
  ⟨_, ⟨.err e, 0⟩, raise_eq e s, ⟨rfl, rfl, rfl, rfl⟩, .kept ⟨rfl, rfl⟩ fun _ => nofun⟩

theorem exec_vectorEffect_of_ne {i : Instr} (happend : i.opcode ≠ .vappend) (hset : i.opcode ≠ .vset) (s : State) :
    ∃ t a, exec i s = .next t ∧ Answered s t a ∧ VectorEffect s t a i := by
  obtain ⟨t, a, hexec, hanswered, hkept⟩ := exec_keepsVector happend hset s
  exact ⟨t, a, hexec, hanswered, .kept hkept fun h => absurd h happend⟩

theorem exec_vappend_vectorEffect (w : Word32) (s : State) :
    ∃ t a, exec (.vappend w) s = .next t ∧ Answered s t a ∧ VectorEffect s t a (.vappend w) := by
  rcases Nat.lt_or_ge s.size s.cfg.maxSize with hroom | hfull
  · by_cases hw : classOf w = .nan
    · rw [exec_vappend_nan hroom hw]
      exact raise_vectorEffect _ s _
    · obtain ⟨q, -, hz⟩ := exists_quantize s.cfg hw
      exact ⟨_, _, (exec_vappend hroom hz).trans (done_eq _ _), ⟨rfl, rfl, rfl, rfl⟩, .appended hroom hz rfl rfl rfl⟩
  · rw [exec_vappend_full hfull]
    exact raise_vectorEffect _ s _

theorem exec_vset_vectorEffect (n : Word64) (w : Word32) (s : State) :
    ∃ t a, exec (.vset n w) s = .next t ∧ Answered s t a ∧ VectorEffect s t a (.vset n w) := by
  rcases Nat.lt_or_ge n.toNat s.size with hn | hout
  · by_cases hw : classOf w = .nan
    · rw [exec_vset_nan hn hw]
      exact raise_vectorEffect _ s _
    · obtain ⟨q, -, hz⟩ := exists_quantize s.cfg hw
      exact ⟨_, _, (exec_vset hn hz).trans (done_eq _ _), ⟨rfl, rfl, rfl, rfl⟩, .rewrote hn hz rfl rfl⟩
  · rw [exec_vset_outside hout]
    exact raise_vectorEffect _ s _

/-- Every command completes, with one response and one of the three effects (R48, R60). -/
theorem exec_vectorEffect (i : Instr) (s : State) :
    ∃ t a, exec i s = .next t ∧ Answered s t a ∧ VectorEffect s t a i := by
  cases i with
  | vappend w => exact exec_vappend_vectorEffect w s
  | vset n w => exact exec_vset_vectorEffect n w s
  | _ => exact exec_vectorEffect_of_ne (by nofun) (by nofun) s

/-! #### The number of entries (R26, R144) -/

/-- `size` counts a VAPPEND answered with OK and nothing else (R26). -/
theorem VectorEffect.size_eq {s t : State} {a : Response} {i : Instr} (h : VectorEffect s t a i) :
    t.size = s.size + if i.opcode = .vappend ∧ a.status = .ok then 1 else 0 := by
  cases h with
  | kept hkept hno =>
    obtain ⟨-, hsize⟩ := hkept
    rw [hsize, if_neg fun ⟨happend, hok⟩ => hno happend hok, Nat.add_zero]
  | appended _ _ _ hsize hok => rw [hsize, if_pos ⟨rfl, hok⟩]
  | rewrote _ _ _ hsize => rw [hsize, if_neg (fun ⟨happend, _⟩ => nomatch happend), Nat.add_zero]

theorem VectorEffect.size_le {s t : State} {a : Response} {i : Instr} (h : VectorEffect s t a i)
    (hs : s.size ≤ s.cfg.maxSize) : t.size ≤ s.cfg.maxSize := by
  cases h with
  | kept hkept _ => exact hkept.right.trans_le hs
  | appended hroom _ _ hsize _ => exact hsize.trans_le hroom
  | rewrote _ _ _ hsize => exact hsize.trans_le hs

/-- A run from any state adds to `size` the VAPPENDs that its own responses answer with OK. -/
theorem execAll_size (is : List Instr) {s : State} (hs : s.size ≤ s.cfg.maxSize) :
    ∃ t as, execAll is s = .next t ∧ t.responses = s.responses ++ as ∧ t.cfg = s.cfg ∧
      t.size = s.size + okAppends is as ∧ t.size ≤ s.cfg.maxSize := by
  induction is generalizing s with
  | nil => exact ⟨s, [], rfl, (List.append_nil _).symm, rfl, rfl, hs⟩
  | cons i is ih =>
    obtain ⟨t, a, hexec, ⟨hresponses, -, -, hcfg⟩, heffect⟩ := exec_vectorEffect i s
    obtain ⟨u, as, hrun, hresponses', hcfg', hsize, hle⟩ := ih (hcfg ▸ heffect.size_le hs)
    refine ⟨u, a :: as, ?_, ?_, hcfg'.trans hcfg, ?_, hcfg ▸ hle⟩
    · rw [execAll, hexec]
      exact hrun
    · rw [hresponses', hresponses, List.append_assoc, List.singleton_append]
    · rw [hsize, heffect.size_eq, okAppends, Nat.add_assoc]

theorem answer_vget {s : State} {n : Word64} (hn : n.toNat < s.size) :
    answer (.vget n) s = some ⟨.ok, resOfSample (decodeChunk s.cfg s.v n.toNat)⟩ :=
  answer_of_exec_eq_done (exec_vget hn)

theorem answer_vget_outside {s : State} {n : Word64} (hn : s.size ≤ n.toNat) :
    answer (.vget n) s = some ⟨.err .boundsError, 0⟩ := by
  simp [answer, exec_vget_outside hn, raise_eq, lastResponse]

theorem answer_vget_ok_iff (s : State) (n : Word64) :
    (∃ y, answer (.vget n) s = some ⟨.ok, y⟩) ↔ n.toNat < s.size := by
  refine ⟨fun ⟨y, hy⟩ => ?_, fun hn => ⟨_, answer_vget hn⟩⟩
  by_contra hout
  rw [answer_vget_outside (Nat.not_lt.mp hout)] at hy
  simp at hy

/-- Settles O24, from the count a run adds to `size`, which is 0 at reset. -/
theorem sizeCountsSuccessfulAppends : Obligations.SizeCountsSuccessfulAppends := by
  intro c is hc
  obtain ⟨t, as, hrun, hresponses, hcfg, hsize, hle⟩ := execAll_size is (s := State.resetFor c) (Nat.zero_le _)
  have hcount : t.size = okAppends is t.responses := hsize.trans (by rw [hresponses]; exact Nat.zero_add _)
  have hlegal : t.cfg.Legal := hcfg ▸ hc
  refine ⟨t, _, hrun, hcount, answer_of_exec_eq_done (exec_vsize t), ?_, answer_vget_ok_iff t⟩
  rw [toNat_resOfNat_size hlegal (hcfg ▸ hle), hcount]

/-! #### The contents of an entry (R145) -/

/-- Two different chunks share no cell, so writing one keeps the fields of the other (R46, R127). -/
theorem ChunkHolds.of_otherChunksKept {c : Params} {V W : Store} {n m : Nat} {z : Quantized} (hne : n ≠ m)
    (hothers : OtherChunksKept c V W m) (h : ChunkHolds c V n z) : ChunkHolds c W n z := by
  obtain ⟨-, hcells⟩ := hothers
  have hchunk := chunk_end c n
  have hkept : ∀ p, n * c.chunkBits ≤ p → p < (n + 1) * c.chunkBits → cell W p = cell V p := by
    intro p hbase hend
    refine hcells p ?_
    rcases Nat.lt_or_gt_of_ne hne with hlt | hgt
    · exact .inl (hend.trans_le (Nat.mul_le_mul_right _ hlt))
    · exact .inr ((Nat.mul_le_mul_right _ hgt).trans hbase)
  obtain ⟨hsign, hi, hd⟩ := h
  refine ⟨fun hS => ?_, fun j hj => ?_, fun j hj => ?_⟩
  · have hwidth := signWidth_of_true hS
    rw [hkept _ le_rfl (by omega), hsign hS]
  · rw [hkept _ (by omega) (by omega), hi j hj]
  · rw [hkept _ (by omega) (by omega), hd j hj]

/-- Entry `n` is populated and holds `z`. -/
def EntryHolds (n : Nat) (z : Quantized) (s : State) : Prop := n < s.size ∧ ChunkHolds s.cfg s.v n z

/-- Nothing but a VSET of entry `n` with a sample that is no NaN changes what the entry holds: a VAPPEND writes the chunk
of index `size`, which is above every entry. -/
theorem VectorEffect.keeps_entryHolds {s t : State} {a : Response} {i : Instr} {n : Word64} {z : Quantized}
    (h : VectorEffect s t a i) (hcfg : t.cfg = s.cfg) (hi : ∀ w, i = .vset n w → classOf w = .nan)
    (hentry : EntryHolds n.toNat z s) : EntryHolds n.toNat z t := by
  obtain ⟨hn, hholds⟩ := hentry
  unfold EntryHolds
  rw [hcfg]
  cases h with
  | kept hkept _ =>
    obtain ⟨hv, hsize⟩ := hkept
    rw [hv, hsize]
    exact ⟨hn, hholds⟩
  | appended _ _ hv hsize _ =>
    rw [hv, hsize]
    exact ⟨Nat.lt_succ_of_lt hn, hholds.of_otherChunksKept hn.ne (writeChunk_others _ _ _ _)⟩
  | @rewrote k w _ _ hz hv hsize =>
    have hne : n.toNat ≠ k.toNat := fun heq =>
      ne_nan_of_quantize hz (hi w (by rw [BitVec.eq_of_toNat_eq heq]))
    rw [hv, hsize]
    exact ⟨hn, hholds.of_otherChunksKept hne (writeChunk_others _ _ _ _)⟩

theorem execAll_keeps_entryHolds {is : List Instr} {s : State} {n : Word64} {z : Quantized}
    (his : ∀ w, .vset n w ∈ is → classOf w = .nan) (hentry : EntryHolds n.toNat z s) :
    ∃ t, execAll is s = .next t ∧ t.cfg = s.cfg ∧ EntryHolds n.toNat z t := by
  induction is generalizing s with
  | nil => exact ⟨s, rfl, rfl, hentry⟩
  | cons i is ih =>
    obtain ⟨t, a, hexec, ⟨-, -, -, hcfg⟩, heffect⟩ := exec_vectorEffect i s
    have hentry' : EntryHolds n.toNat z t :=
      heffect.keeps_entryHolds hcfg (fun w hw => his w (hw ▸ List.mem_cons_self)) hentry
    obtain ⟨u, hrun, hcfg', hentry''⟩ := ih (fun w hw => his w (List.mem_cons_of_mem i hw)) hentry'
    refine ⟨u, ?_, hcfg'.trans hcfg, hentry''⟩
    rw [execAll, hexec]
    exact hrun

/-- VGET of an entry answers the word of the sign and the fields it holds (R128, R141). -/
theorem EntryHolds.answer_vget {s : State} {n : Word64} {w : Word32} {z : Quantized} (h : EntryHolds n.toNat z s)
    (hz : quantize s.cfg w = some z) : answer (.vget n) s =
      some ⟨.ok, (f32 (s.cfg.signBit && z.neg) (z.i * 2 ^ s.cfg.decimalBits + z.d) s.cfg.decimalBits).zeroExtend 64⟩ := by
  obtain ⟨hn, hholds⟩ := h
  obtain ⟨q, hq, hz'⟩ := exists_quantize s.cfg (ne_nan_of_quantize hz)
  obtain rfl : z = _ := Option.some.inj (hz.symm.trans hz')
  rw [Machine.answer_vget hn, decodeChunk_of_holds hq hholds, Nat.div_add_mod', resOfSample]

/-- A VAPPEND or VSET of `w` that succeeds populates the entry with the quantized `w` (R140, R142). -/
theorem entryHolds_of_written {s t : State} {n : Word64} {w : Word32} {z : Quantized} (hs : s.Inv)
    (hz : quantize s.cfg w = some z)
    (hwrite : (n.toNat = s.size ∧ s.size < s.cfg.maxSize ∧ exec (.vappend w) s = .next t) ∨
      (n.toNat < s.size ∧ exec (.vset n w) s = .next t)) :
    t.cfg = s.cfg ∧ EntryHolds n.toNat z t := by
  obtain ⟨-, -, -, hlen, hsize⟩ := hs
  rcases hwrite with ⟨hn, hroom, hexec⟩ | ⟨hn, hexec⟩
  · rw [exec_vappend hroom hz, done_eq, Host.Outcome.next.injEq] at hexec
    subst hexec
    rw [hn]
    exact ⟨rfl, Nat.lt_succ_self _, writeChunk_holds (chunk_le_length hlen hroom) z⟩
  · rw [exec_vset hn hz, done_eq, Host.Outcome.next.injEq] at hexec
    subst hexec
    exact ⟨rfl, hn, writeChunk_holds (chunk_le_length hlen (hn.trans_le hsize)) z⟩

/-- Settles O56, from the entry holding the quantized sample, which every later command keeps. -/
theorem entryHoldsQuantizedSample : Obligations.EntryHoldsQuantizedSample := by
  intro s t n w z is hs hz hwrite his
  obtain ⟨hcfg, hentry⟩ := entryHolds_of_written hs hz hwrite
  obtain ⟨u, hrun, hcfg', hentry'⟩ := execAll_keeps_entryHolds his hentry
  have hcfgs : u.cfg = s.cfg := hcfg'.trans hcfg
  refine ⟨u, hrun, ?_⟩
  rw [hentry'.answer_vget (hcfgs ▸ hz), hcfgs]

end Sys2Proof.Machine

/-! ### Errors (`spec/60_exceptions.md`, rules R153 to R157) -/

namespace Sys2Proof.Machine

/-! #### How a command can end -/

/-- The command ends with OK; the responses given before it stay. -/
def Completes (s : State) (r : Result) : Prop := ∃ x t, r = done x t ∧ t.responses = s.responses

theorem Completes.responses_ne_error {s t : State} {r : Result} (h : Completes s r) (hr : r = .next t) (e : Err)
    (x : Word64) : t.responses ≠ s.responses ++ [⟨.err e, x⟩] := by
  obtain ⟨y, u, rfl, hkept⟩ := h
  rw [done_eq, Host.Outcome.next.injEq] at hr
  subst hr
  simp [hkept]

theorem responses_raise_iff {s t : State} {x : Word64} {e e' : Err} (hraise : raise e s = .next t) :
    t.responses = s.responses ++ [⟨.err e', x⟩] ↔ e' = e ∧ x = 0 := by
  rw [raise_eq, Host.Outcome.next.injEq] at hraise
  subst hraise
  rw [State.respond_responses, List.append_cancel_left_eq, List.singleton_inj, Response.mk.injEq, Status.err.injEq,
    eq_comm, eq_comm (a := x)]

theorem eq_respond_of_raise {s t : State} {x : Word64} {e e' : Err} (hraise : raise e' s = .next t)
    (ht : t.responses = s.responses ++ [⟨.err e, x⟩]) : x = 0 ∧ t = s.respond ⟨.err e, 0⟩ := by
  obtain ⟨rfl, rfl⟩ := (responses_raise_iff hraise).mp ht
  rw [raise_eq, Host.Outcome.next.injEq] at hraise
  exact ⟨rfl, hraise.symm⟩

/-- How a command can end in `s` when `P` says of every error whether its condition holds: with OK if no condition does,
else in `s` with the error whose place in R155's order is before every other's (R153, R155, R156). -/
inductive Ends (s : State) (P : Err → Prop) : Result → Prop
  | ok {r : Result} (hok : Completes s r) (hnone : ∀ e, ¬ P e) : Ends s P r
  | error {e : Err} (he : P e) (hfirst : ∀ e', P e' → e' ≠ e → errorRank e < errorRank e') : Ends s P (raise e s)

namespace Ends

variable {s : State} {P Q : Err → Prop} {r body : Result}

/-- The conditions may be said in other words, as the model's checks or as R153's table. -/
theorem congr (hPQ : ∀ e, P e ↔ Q e) (h : Ends s Q r) : Ends s P r := by
  rwa [funext fun e => propext (hPQ e)]

/-- One more check, in front of the others: its error comes before theirs. -/
theorem check {c : Prop} {e₀ : Err} (hr : (¬ c ∧ r = body) ∨ (c ∧ r = raise e₀ s)) (hbody : Ends s Q body)
    (hlate : ∀ e, Q e → errorRank e₀ < errorRank e) : Ends s (fun e => (e = e₀ ∧ c) ∨ Q e) r := by
  rcases hr with ⟨hc, rfl⟩ | ⟨hc, rfl⟩
  · exact hbody.congr fun e => or_iff_right fun ⟨_, h⟩ => hc h
  · refine .error (.inl ⟨rfl, hc⟩) fun e he hne => ?_
    rcases he with ⟨heq, -⟩ | hq
    · exact absurd heq hne
    · exact hlate e hq

/-- The last check of a command: nothing after it can fail. -/
theorem lastCheck {c : Prop} {e₀ : Err} (hr : (¬ c ∧ Completes s r) ∨ (c ∧ r = raise e₀ s)) :
    Ends s (fun e => e = e₀ ∧ c) r := by
  rcases hr with ⟨hc, hok⟩ | ⟨hc, rfl⟩
  · exact .ok hok fun e ⟨_, h⟩ => hc h
  · exact .error ⟨rfl, hc⟩ fun e ⟨heq, _⟩ hne => absurd heq hne

/-- A command that answers with an error does nothing but answer. -/
theorem eq_respond (h : Ends s P r) {t : State} {e : Err} {x : Word64} (hr : r = .next t)
    (ht : t.responses = s.responses ++ [⟨.err e, x⟩]) : x = 0 ∧ t = s.respond ⟨.err e, 0⟩ := by
  cases h with
  | ok hok => exact absurd ht (hok.responses_ne_error hr e x)
  | error => exact eq_respond_of_raise hr ht

/-- The error reported is the first of those whose condition holds; no two of them have one place in the order. -/
theorem raises_iff (h : Ends s P r) (e : Err) :
    (∃ t, r = .next t ∧ t.responses = s.responses ++ [⟨.err e, 0⟩]) ↔
      (P e ∧ ∀ e', P e' → errorRank e ≤ errorRank e') := by
  cases h with
  | ok hok hnone =>
    exact iff_of_false (fun ⟨_, ht, hresp⟩ => hok.responses_ne_error ht e 0 hresp) fun ⟨he, _⟩ => hnone e he
  | @error e₀ he₀ hfirst =>
    constructor
    · rintro ⟨t, ht, hresp⟩
      obtain ⟨rfl, -⟩ := (responses_raise_iff ht).mp hresp
      refine ⟨he₀, fun e' he' => ?_⟩
      by_cases heq : e' = e
      · rw [heq]
      · exact (hfirst e' he' heq).le
    · rintro ⟨he, hleast⟩
      have heq : e = e₀ := by
        by_contra hne
        exact absurd (hleast e₀ he₀) (Nat.not_le.mpr (hfirst e he hne))
      exact ⟨_, raise_eq e₀ s, by rw [heq, State.respond_responses]⟩

/-! #### The shared checks -/

theorem legalStores (ks : List StoreIdx) (hbody : Ends s Q body) (hlate : ∀ e, Q e → 1 < errorRank e) :
    Ends s (fun e => (e = .illegalCommand ∧ ∃ k ∈ ks, s.cfg.bsCount ≤ k.toNat) ∨ Q e)
      (Machine.legalStores ks s body) := by
  refine check ((legalStores_cases ks s body).imp_left (And.imp_left ?_)) hbody hlate
  rintro hin ⟨k, hk, hout⟩
  exact Nat.not_le.mpr (hin k hk) hout

theorem atPosition (p : Word64) {body : Nat → Result} (hbody : Completes s (body p.toNat)) :
    Ends s (fun e => e = .rangeError ∧ s.cfg.bsN ≤ p.toNat) (Machine.atPosition p s body) := by
  refine lastCheck ?_
  rcases atPosition_cases p s body with ⟨hlt, heq⟩ | hout
  · exact .inl ⟨Nat.not_le.mpr hlt, heq ▸ hbody⟩
  · exact .inr hout

theorem withEncoded (n : Nat) (w : Word32) {body : Store → Result} (hbody : ∀ V, Completes s (body V)) :
    Ends s (fun e => e = .invalidSample ∧ classOf w = .nan) (Machine.withEncoded n w s body) := by
  refine lastCheck ?_
  by_cases hw : classOf w = .nan
  · exact .inr ⟨hw, withEncoded_of_nan hw n s body⟩
  · obtain ⟨q, -, hz⟩ := exists_quantize s.cfg hw
    exact .inl ⟨hw, withEncoded_of_quantize hz body ▸ hbody _⟩

end Ends

/-! #### The rows of R153's table -/

theorem mayRaise_position_iff (s : State) (k : StoreIdx) (p : Word64) (v : Bool) {i : Instr}
    (hi : i ∈ [Instr.bget k p, .btest k p, .bset k p v]) (e : Err) :
    mayRaise s i e ↔ e = .rangeError ∧ s.cfg.bsN ≤ p.toNat := by
  simp only [List.mem_cons, List.not_mem_nil, or_false] at hi
  rcases hi with rfl | rfl | rfl <;> cases e <;> simp [mayRaise]

theorem mayRaise_btou_iff (s : State) (sa : StoreIdx) (e : Err) :
    mayRaise s (.btou sa) e ↔ e = .widthError ∧ 64 < s.cfg.bsN := by
  cases e <;> simp [mayRaise]

theorem mayRaise_vappend_iff (s : State) (w : Word32) (e : Err) : mayRaise s (.vappend w) e ↔
    (e = .capacityError ∧ s.size = s.cfg.maxSize) ∨ e = .invalidSample ∧ classOf w = .nan := by
  cases e <;> simp [mayRaise]

theorem mayRaise_vget_iff (s : State) (n : Word64) (e : Err) :
    mayRaise s (.vget n) e ↔ e = .boundsError ∧ s.size ≤ n.toNat := by
  cases e <;> simp [mayRaise]

theorem mayRaise_vset_iff (s : State) (n : Word64) (w : Word32) (e : Err) : mayRaise s (.vset n w) e ↔
    (e = .boundsError ∧ s.size ≤ n.toNat) ∨ e = .invalidSample ∧ classOf w = .nan := by
  cases e <;> simp [mayRaise]

/-- The table has IllegalCommand in no row: what it lets a command raise comes after the store indices (R155). -/
theorem one_lt_errorRank_of_mayRaise {s : State} {i : Instr} {e : Err} (h : mayRaise s i e) : 1 < errorRank e := by
  cases e with
  | illegalCommand => cases i <;> exact h.elim
  | _ => decide

/-! #### Every command ends with the first error of its row -/

theorem ends_position {s : State} (k : StoreIdx) (p : Word64) (v : Bool) {i : Instr} {body : Nat → Result}
    (hi : i ∈ [Instr.bget k p, .btest k p, .bset k p v]) (hbody : Completes s (body p.toNat)) :
    Ends s (mayRaise s i) (atPosition p s body) :=
  .congr (mayRaise_position_iff s k p v hi) (.atPosition p hbody)

theorem ends_btou (s : State) (sa : StoreIdx) : Ends s (mayRaise s (.btou sa))
    (if s.cfg.bsN ≤ Params.uw then done (resOfNat (natOfStore (s.store sa))) s else raise .widthError s) := by
  refine .congr (mayRaise_btou_iff s sa) (.lastCheck ?_)
  rcases Nat.lt_or_ge 64 s.cfg.bsN with hwide | hfits
  · exact .inr ⟨hwide, if_neg (Nat.not_le.mpr hwide)⟩
  · exact .inl ⟨Nat.not_lt.mpr hfits, _, _, if_pos hfits, rfl⟩

/-- `size` is never above `MAX_SIZE`, so the capacity check fails exactly at equality, as the table says (R140, R153). -/
theorem ends_vappend {s : State} (hsize : s.size ≤ s.cfg.maxSize) (w : Word32) :
    Ends s (mayRaise s (.vappend w)) (exec (.vappend w) s) := by
  rw [exec_vappend_eq_atFreeSlot]
  refine .congr (mayRaise_vappend_iff s w) (.check
    ((atFreeSlot_cases s _).imp (And.imp_left Nat.ne_of_lt) (And.imp_left hsize.antisymm))
    (.withEncoded s.size w fun _ => ⟨_, _, rfl, rfl⟩) ?_)
  rintro e ⟨rfl, -⟩
  decide

theorem ends_vget (n : Word64) (s : State) : Ends s (mayRaise s (.vget n)) (exec (.vget n) s) := by
  rw [exec_vget_eq_atEntry]
  exact .congr (mayRaise_vget_iff s n)
    (.lastCheck ((atEntry_cases n s _).imp_left fun ⟨hlt, heq⟩ => ⟨Nat.not_le.mpr hlt, _, _, heq, rfl⟩))

theorem ends_vset (n : Word64) (w : Word32) (s : State) : Ends s (mayRaise s (.vset n w)) (exec (.vset n w) s) := by
  rw [exec_vset_eq_atEntry]
  refine .congr (mayRaise_vset_iff s n w) (.check ((atEntry_cases n s _).imp_left (And.imp_left Nat.not_le.mpr))
    (.withEncoded n.toNat w fun _ => ⟨_, _, rfl, rfl⟩) ?_)
  rintro e ⟨rfl, -⟩
  decide

/-- A store index named twice is checked once. -/
theorem legalStores_cons_of_mem {ks : List StoreIdx} {k : StoreIdx} (hk : k ∈ ks) (s : State) (body : Result) :
    legalStores (k :: ks) s body = legalStores ks s body := by
  rcases legalStores_cases ks s body with ⟨hin, heq⟩ | ⟨⟨l, hl, hout⟩, heq⟩
  · rw [heq, legalStores_of_inFile (List.forall_mem_cons.mpr ⟨hin k hk, hin⟩)]
  · rw [heq, legalStores_outside (List.mem_cons_of_mem k hl) hout]

theorem legalStores_nil (s : State) (body : Result) : legalStores [] s body = body :=
  legalStores_of_inFile (List.forall_mem_nil _) body

/-- Every command checks its store indices first, and what comes after ends with the first error of its row of R153's
table (R66 step 3, R155). -/
theorem exec_checks_stores {i : Instr} {s : State} (hsize : i.opcode = .vappend → s.size ≤ s.cfg.maxSize) :
    ∃ body, exec i s = legalStores i.stores s body ∧ Ends s (mayRaise s i) body := by
  cases i with
  | bzero | bldu | ball | bany | bnone | bcount | band | bor | bxor | bnot | beq =>
    exact ⟨_, rfl, .ok ⟨_, _, rfl, rfl⟩ fun _ => id⟩
  | banda | bora | bxora =>
    exact ⟨_, legalStores_cons_of_mem List.mem_cons_self s _, .ok ⟨_, _, rfl, rfl⟩ fun _ => id⟩
  | bget sa p | btest sa p => exact ⟨_, rfl, ends_position sa p false (by simp) ⟨_, _, rfl, rfl⟩⟩
  | bset sd p v => exact ⟨_, rfl, ends_position sd p v (by simp) ⟨_, _, rfl, rfl⟩⟩
  | btou sa => exact ⟨_, rfl, ends_btou s sa⟩
  | vappend w => exact ⟨_, (legalStores_nil s _).symm, ends_vappend (hsize rfl) w⟩
  | vget n => exact ⟨_, (legalStores_nil s _).symm, ends_vget n s⟩
  | vset n w => exact ⟨_, (legalStores_nil s _).symm, ends_vset n w s⟩
  | vsize => exact ⟨_, (legalStores_nil s _).symm, .ok ⟨_, _, exec_vsize s, rfl⟩ fun _ => id⟩

/-- The capacity check needs the bound on `size`, and no other check does. -/
theorem exec_ends {i : Instr} {s : State} (hsize : i.opcode = .vappend → s.size ≤ s.cfg.maxSize) :
    Ends s (fun e => (e = .illegalCommand ∧ ∃ k ∈ i.stores, s.cfg.bsCount ≤ k.toNat) ∨ mayRaise s i e)
      (exec i s) := by
  obtain ⟨body, hexec, hbody⟩ := exec_checks_stores hsize
  rw [hexec]
  exact hbody.legalStores i.stores fun _ => one_lt_errorRank_of_mayRaise

/-- A request that fails decode ends as a command whose only condition is IllegalCommand's (R66, R67). -/
theorem runRequest_ends {s : State} (r : Request) (hsize : s.size ≤ s.cfg.maxSize) :
    Ends s (requestError s r) (runRequest r s) := by
  unfold requestError runRequest
  cases decode r with
  | none => exact .error rfl fun e he hne => absurd he hne
  | some i => exact exec_ends fun _ => hsize

/-- Settles O15, from every request ending with the first of its errors. -/
theorem errorsFollowTheTable : Obligations.ErrorsFollowTheTable := by
  rintro r s e ⟨-, -, -, -, hsize⟩
  exact (runRequest_ends r hsize).raises_iff e

/-! #### An error is a response and nothing else -/

/-- This holds in every state: above `MAX_SIZE`, where no run gets, VAPPEND answers CapacityError too. -/
theorem eq_respond_of_error {i : Instr} {s t : State} {e : Err} {x : Word64} (hexec : exec i s = .next t)
    (hresp : t.responses = s.responses ++ [⟨.err e, x⟩]) : x = 0 ∧ t = s.respond ⟨.err e, 0⟩ := by
  by_cases hsize : i.opcode = .vappend → s.size ≤ s.cfg.maxSize
  · exact (exec_ends hsize).eq_respond hexec hresp
  · obtain ⟨hop, hlarge⟩ := Classical.not_imp.mp hsize
    cases i with
    | vappend w => exact eq_respond_of_raise ((exec_vappend_full (Nat.le_of_not_le hlarge) w).symm.trans hexec) hresp
    | _ => contradiction

/-- Settles O14, from the one response being all that an error adds to the state. -/
theorem errorChangesNothing : Obligations.ErrorChangesNothing := by
  intro i s t e x hexec hresp
  obtain ⟨hx, rfl⟩ := eq_respond_of_error hexec hresp
  exact ⟨hx, onlyAnswered_respond s _⟩

/-- No command reads the record of responses (R25), so one more response in it changes nothing a command answers or
writes. -/
theorem exec_after_response (j : Instr) (s : State) (b : Response) :
    ∃ u u' a, exec j s = .next u ∧ exec j (s.respond b) = .next u' ∧ Answered s u a ∧ Answered (s.respond b) u' a ∧
      FileKept u u' ∧ VectorKept u u' := by
  obtain ⟨u, a, hu, ⟨hresp, hkept⟩, -⟩ := exec_vectorEffect j s
  obtain ⟨u₁, a₁, hu₁, hresp₁, hblind⟩ := RecordBlind.exec j s (s.responses ++ [b])
  obtain rfl : u = u₁ := by rwa [hu, Host.Outcome.next.injEq] at hu₁
  obtain rfl : a = a₁ := by simpa [hresp] using hresp₁
  exact ⟨u, _, a, hu, hblind, ⟨hresp, hkept⟩, ⟨rfl, hkept⟩, rfl, rfl, rfl⟩

/-- Settles O16: the rejected command left one response in the record and nothing else. -/
theorem rejectedCommandLeavesNoTrace : Obligations.RejectedCommandLeavesNoTrace := by
  intro i s t e x hexec hresp
  obtain ⟨-, rfl⟩ := eq_respond_of_error hexec hresp
  refine ⟨?_, fun j => exec_after_response j s _⟩
  obtain ⟨u, u', a, hu, hu', ⟨ha, -⟩, hanswered, hfile, hv, hsize⟩ := exec_after_response i s ⟨.err e, 0⟩
  obtain rfl : s.respond ⟨.err e, 0⟩ = u := by rwa [hexec, Host.Outcome.next.injEq] at hu
  obtain rfl : ⟨.err e, 0⟩ = a := by simpa using ha
  exact ⟨u', hu', hanswered, hfile, hv, hsize⟩

end Sys2Proof.Machine

/-! ### Reset (`spec/70_reset_and_hazards.md`, rules R170, R171) -/

namespace Sys2Proof.Machine

/-- A reset edge is one step whether or not it abandons a command in flight. -/
theorem step_reset {s : State} {r : Request} {rest : List Input} (hc : s.cfg.Legal)
    (hin : s.inputs = .reset :: rest ∨ s.inputs = .resetInFlight r :: rest) : step s = .next (s.afterReset rest) := by
  unfold step
  rw [if_pos hc]
  rcases hin with hin | hin
  · rw [hin]
  · rw [hin]

/-- Every store of the file has `BS_N` cells after a reset, whatever it had before. -/
theorem State.afterReset_inv {s : State} (hc : s.cfg.Legal) (rest : List Input) : (s.afterReset rest).Inv := by
  refine ⟨hc, ?_, fun X hX => ?_, ?_, Nat.zero_le _⟩
  · exact List.length_replicate
  · rw [List.eq_of_mem_replicate hX]
    exact length_zeroStore s.cfg.bsN
  · exact length_zeroStore s.cfg.nv

/-- An index of the file names a zero store; one outside it names no cell, and so reads 0 too. -/
theorem State.cell_store_afterReset (s : State) (rest : List Input) (k : StoreIdx) (p : Nat) :
    cell ((s.afterReset rest).store k) p = false := by
  rcases Nat.lt_or_ge k.toNat (s.afterReset rest).stores.length with hk | hk
  · rw [List.eq_of_mem_replicate (State.store_mem _ hk), cell_zeroStore]
  · rw [State.store, List.getD_eq_default _ _ hk, cell_nil]

/-- Settles O25, from both reset events stepping to `afterReset`, which is the reset state of the same block. -/
theorem resetDiscardsState : Obligations.ResetDiscardsState := by
  intro s r rest hc hin
  exact ⟨s.afterReset rest, step_reset hc hin, State.afterReset_inv hc rest, State.afterReset_cfg s rest,
    State.afterReset_inputs s rest, State.afterReset_responses s rest, State.afterReset_wasReset s rest,
    State.afterReset_size s rest, fun p => cell_zeroStore s.cfg.nv p, State.cell_store_afterReset s rest⟩

end Sys2Proof.Machine

/-! ### Decoding and encoding are inverse (`spec/30_encoding.md`, rules R61 to R67) -/

namespace Sys2Proof

/-- The formats with a field `sd` (R61). -/
def Format.hasSd : Format → Bool
  | .d | .dv | .da | .db | .dab => true
  | .z | .a | .ab => false

/-- The formats with a field `sa` (R61). -/
def Format.hasSa : Format → Bool
  | .a | .da | .ab | .dab => true
  | .z | .d | .dv | .db => false

/-- The formats with a field `sb` (R61). -/
def Format.hasSb : Format → Bool
  | .ab | .db | .dab => true
  | .z | .d | .dv | .a | .da => false

/-- The one format with a field `v` (R61). -/
def Format.hasV : Format → Bool
  | .dv => true
  | .z | .d | .a | .da | .ab | .db | .dab => false

/-- The reserved bits 31:21 of a command word (R61). -/
def zeroField (c : Word32) : BitVec 11 := c.extractLsb' 21 11

theorem sdField_mask (f : Format) : sdField f.mask = if f.hasSd then 0 else BitVec.allOnes 4 := by
  cases f <;> rfl

theorem saField_mask (f : Format) : saField f.mask = if f.hasSa then 0 else BitVec.allOnes 4 := by
  cases f <;> rfl

theorem sbField_mask (f : Format) : sbField f.mask = if f.hasSb then 0 else BitVec.allOnes 4 := by
  cases f <;> rfl

theorem vField_mask (f : Format) : vField f.mask = !f.hasV := by
  cases f <;> rfl

theorem zeroField_mask (f : Format) : zeroField f.mask = BitVec.allOnes 11 := by
  cases f <;> rfl

end Sys2Proof

namespace Sys2Proof.Machine
theorem pattern_eq_commandWord (o : Opcode) : o.pattern = commandWord o 0 0 0 false := by
  cases o <;> rfl

/-- The six fields of R61 cover a command word. -/
theorem command_ext {c c' : Word32} (hop : opField c = opField c') (hsd : sdField c = sdField c')
    (hsa : saField c = saField c') (hsb : sbField c = sbField c') (hv : vField c = vField c')
    (hzero : zeroField c = zeroField c') : c = c' := by
  have bit {w : Nat} (b k : Nat) (h : c.extractLsb' b w = c'.extractLsb' b w) (hb : b ≤ k) (hk : k < b + w) :
      c.getLsbD k = c'.getLsbD k := by
    have := congrArg (·.getLsbD (k - b)) h
    simpa [show k - b < w by omega, Nat.add_sub_cancel' hb] using this
  refine BitVec.eq_of_getLsbD_eq fun k hk => ?_
  rcases Nat.lt_or_ge k 8 with h8 | h8
  · exact bit 0 k hop (Nat.zero_le k) h8
  rcases Nat.lt_or_ge k 12 with h12 | h12
  · exact bit 8 k hsd h8 h12
  rcases Nat.lt_or_ge k 16 with h16 | h16
  · exact bit 12 k hsa h12 h16
  rcases Nat.lt_or_ge k 20 with h20 | h20
  · exact bit 16 k hsb h16 h20
  rcases Nat.lt_or_ge k 21 with h21 | h21
  · obtain rfl : k = 20 := by omega
    exact hv
  · exact bit 21 k hzero h21 hk

theorem zeroField_commandWord (o : Opcode) (sd sa sb : StoreIdx) (v : Bool) :
    zeroField (commandWord o sd sa sb v) = 0 := by
  refine BitVec.eq_of_getLsbD_eq fun k hk => ?_
  simp only [zeroField, commandWord, BitVec.getLsbD_extractLsb', BitVec.getLsbD_append, hk, decide_true, Bool.true_and]
  rw [if_neg (by omega), if_neg (by omega), if_neg (by omega), if_neg (by omega), if_neg (by omega),
    BitVec.getLsbD_zero]
  exact (BitVec.getLsbD_zero).symm

/-- A field of the masked word is 0 where the format has the field, and the whole field where it must be 0 (R65). -/
theorem sdField_and_mask (f : Format) (c : Word32) : sdField (c &&& f.mask) = if f.hasSd then 0 else sdField c := by
  rw [show sdField (c &&& f.mask) = sdField c &&& sdField f.mask from BitVec.extractLsb'_and, sdField_mask]
  split
  · exact BitVec.and_zero
  · exact BitVec.and_allOnes

theorem saField_and_mask (f : Format) (c : Word32) : saField (c &&& f.mask) = if f.hasSa then 0 else saField c := by
  rw [show saField (c &&& f.mask) = saField c &&& saField f.mask from BitVec.extractLsb'_and, saField_mask]
  split
  · exact BitVec.and_zero
  · exact BitVec.and_allOnes

theorem sbField_and_mask (f : Format) (c : Word32) : sbField (c &&& f.mask) = if f.hasSb then 0 else sbField c := by
  rw [show sbField (c &&& f.mask) = sbField c &&& sbField f.mask from BitVec.extractLsb'_and, sbField_mask]
  split
  · exact BitVec.and_zero
  · exact BitVec.and_allOnes

theorem vField_and_mask (f : Format) (c : Word32) : vField (c &&& f.mask) = (vField c && !f.hasV) := by
  rw [← vField_mask]
  exact BitVec.getLsbD_and

theorem zeroField_and_mask (f : Format) (c : Word32) : zeroField (c &&& f.mask) = zeroField c := by
  rw [show zeroField (c &&& f.mask) = zeroField c &&& zeroField f.mask from BitVec.extractLsb'_and, zeroField_mask,
    BitVec.and_allOnes]

theorem opField_and_mask (f : Format) (c : Word32) : opField (c &&& f.mask) = opField c := by
  rw [opField_and, opField_mask, BitVec.and_allOnes]

/-- A word is put together from given fields exactly when they are its fields and its reserved bits are 0 (R61). -/
theorem eq_commandWord_iff {c : Word32} {o : Opcode} {sd sa sb : StoreIdx} {v : Bool} :
    c = commandWord o sd sa sb v ↔
      opField c = o.byte ∧ sdField c = sd ∧ saField c = sa ∧ sbField c = sb ∧ vField c = v ∧ zeroField c = 0 := by
  constructor
  · rintro rfl
    exact ⟨Laws.EncodesOpcode.opField_commandWord o sd sa sb v, sdField_commandWord o sd sa sb v,
      saField_commandWord o sd sa sb v, sbField_commandWord o sd sa sb v, vField_commandWord o sd sa sb v,
      zeroField_commandWord o sd sa sb v⟩
  · rintro ⟨hop, hsd, hsa, hsb, hv, hzero⟩
    exact command_ext (hop.trans (Laws.EncodesOpcode.opField_commandWord o sd sa sb v).symm)
      (hsd.trans (sdField_commandWord o sd sa sb v).symm) (hsa.trans (saField_commandWord o sd sa sb v).symm)
      (hsb.trans (sbField_commandWord o sd sa sb v).symm) (hv.trans (vField_commandWord o sd sa sb v).symm)
      (hzero.trans (zeroField_commandWord o sd sa sb v).symm)

theorem masked_eq_zero_iff (used : Bool) (k : StoreIdx) :
    (if used then 0 else k) = 0 ↔ k = if used then k else 0 := by
  cases used <;> simp

/-- The words a row selects are those put together from its opcode and the fields of its format (R65, R66, R69). -/
theorem selects_iff_commandWord (o : Opcode) (c : Word32) : Selects o c ↔
    c = commandWord o (if o.format.hasSd then sdField c else 0) (if o.format.hasSa then saField c else 0)
      (if o.format.hasSb then sbField c else 0) (o.format.hasV && vField c) := by
  have hv : (vField c && !o.format.hasV) = false ↔ vField c = (o.format.hasV && vField c) := by
    cases o.format.hasV <;> simp
  rw [selects_iff, pattern_eq_commandWord, eq_commandWord_iff, eq_commandWord_iff, opField_and_mask, sdField_and_mask,
    saField_and_mask, sbField_and_mask, vField_and_mask, zeroField_and_mask, masked_eq_zero_iff, masked_eq_zero_iff,
    masked_eq_zero_iff, hv]

/-- Encoding sets the fields of the row's format and no other. -/
theorem selects_encode (i : Instr) : Selects i.opcode (encode i).cmd := by
  rw [selects_iff_commandWord]
  cases i <;>
    simp only [encode, sdField_commandWord, saField_commandWord, sbField_commandWord, vField_commandWord] <;> rfl

theorem operands_encode (i : Instr) : i.opcode.operands (encode i) = i := by
  cases i <;>
    simp only [encode, Instr.opcode, Opcode.operands, sdField_commandWord, saField_commandWord, sbField_commandWord,
      vField_commandWord]

theorem decode_encode (i : Instr) : decode (encode i) = some i := by
  rw [decode_of_selects (selects_encode i), operands_encode]

/-- Settles O1, from the row of a command selecting its encoded word and reading its operands back. -/
theorem decodeInvertsEncode : Obligations.DecodeInvertsEncode :=
  decode_encode

/-- Encoding puts the fields that the row uses back into place. -/
theorem cmd_encode_operands {o : Opcode} {r : Request} (h : Selects o r.cmd) : (encode (o.operands r)).cmd = r.cmd :=
  calc (encode (o.operands r)).cmd
      = commandWord o (if o.format.hasSd then sdField r.cmd else 0) (if o.format.hasSa then saField r.cmd else 0)
          (if o.format.hasSb then sbField r.cmd else 0) (o.format.hasV && vField r.cmd) := by cases o <;> rfl
    _ = r.cmd := ((selects_iff_commandWord o r.cmd).mp h).symm

theorem opa_encode_operands {o : Opcode} (h : o.usesOpa = true) (r : Request) :
    (encode (o.operands r)).opa = r.opa := by
  cases o with
  | bldu | bget | bset | btest | vget | vset => rfl
  | _ => contradiction

theorem opb_encode_operands {o : Opcode} (h : o.usesOpb = true) (r : Request) :
    (encode (o.operands r)).opb = r.opb := by
  cases o with
  | vappend | vset => rfl
  | _ => contradiction

/-- Settles O2, from the operands of the row that selects the word. -/
theorem encodeInvertsDecode : Obligations.EncodeInvertsDecode := by
  intro r i hdecode
  obtain ⟨o, -, hmask, rfl⟩ := row_of_decode hdecode
  have hrow : Selects o r.cmd := (selects_iff o r.cmd).mpr hmask
  rw [opcode_operands]
  exact ⟨cmd_encode_operands hrow, fun h => opa_encode_operands h r, fun h => opb_encode_operands h r⟩

/-! #### Requests (R62, R66, R67) -/

theorem operands_congr {o : Opcode} {c : Word32} {opa opa' : Word64} {opb opb' : Word32}
    (ha : o.usesOpa = true → opa = opa') (hb : o.usesOpb = true → opb = opb') :
    o.operands ⟨c, opa, opb⟩ = o.operands ⟨c, opa', opb'⟩ := by
  cases o with
  | bldu | bget | bset | btest | vget => simp only [Opcode.operands, ha rfl]
  | vappend => simp only [Opcode.operands, hb rfl]
  | vset => simp only [Opcode.operands, ha rfl, hb rfl]
  | _ => rfl

theorem decode_eq_none_iff (r : Request) : decode r = none ↔ ∀ o, ¬ Selects o r.cmd := by
  refine ⟨fun hnone o hrow => ?_, fun hno => ?_⟩
  · rw [decode_of_selects hrow] at hnone
    contradiction
  · cases hdecode : decode r with
    | none => rfl
    | some i => exact absurd (selects_of_decode hdecode) (hno i.opcode)

theorem runRequest_of_decode {r : Request} {i : Instr} (h : decode r = some i) (s : State) :
    runRequest r s = exec i s := by
  rw [runRequest, h]

theorem runRequest_of_illegal {r : Request} (h : ∀ o, ¬ Selects o r.cmd) (s : State) :
    runRequest r s = raise .illegalCommand s := by
  rw [runRequest, (decode_eq_none_iff r).mpr h]

/-- Settles O5: the row a word selects does not depend on the carriers, and its operands do on the used ones only. -/
theorem unusedCarriersIgnored : Obligations.UnusedCarriersIgnored := by
  intro c opa opa' opb opb' s hused
  by_cases hrow : ∃ o, Selects o c
  · obtain ⟨o, ho⟩ := hrow
    obtain ⟨ha, hb⟩ := hused o ho
    rw [runRequest_of_decode (decode_of_selects ho), runRequest_of_decode (decode_of_selects ho), operands_congr ha hb]
  · have hno : ∀ o, ¬ Selects o c := fun o ho => hrow ⟨o, ho⟩
    rw [runRequest_of_illegal hno, runRequest_of_illegal hno]

/-- Settles O3, by running the decoder on the words written out. -/
theorem specWordsDecode : Obligations.SpecWordsDecode := by
  unfold Obligations.SpecWordsDecode
  decide

/-! #### The next request of the stream (R48, R66) -/

theorem step_command {s : State} {r : Request} {rest : List Input} (hs : s.Ready)
    (hin : s.inputs = .command r :: rest) : step s = runRequest r (s.takeInput rest) := by
  obtain ⟨hc, hreset⟩ := hs
  rw [step, if_pos hc, hin]
  exact if_pos hreset

/-- Settles O9, from the step taking the request off the stream and the request being its command. -/
theorem stepRunsDecodedCommand : Obligations.StepRunsDecodedCommand := by
  intro s r rest i hs hin hdecode
  rw [step_command hs hin, runRequest_of_decode hdecode]
  rfl

/-- Settles O10, from the decoder rejecting a word that no row selects. -/
theorem illegalWordRejected : Obligations.IllegalWordRejected := by
  intro s r rest hs hin hno
  rw [step_command hs hin, runRequest_of_illegal hno]
  exact raise_onlyAnswered .illegalCommand (s.takeInput rest)

end Sys2Proof.Machine

/-! ### What a command can do (`spec/20_memory.md`, rules R45 to R48; `spec/60_exceptions.md`, rules R155, R156) -/

namespace Sys2Proof.Machine

/-- Everything a command can do: answer an error; answer a result; write one store of the file; append an entry; rewrite
an entry. -/
inductive ExecCase (s : State) : Instr → Result → Prop
  | raised {i : Instr} (e : Err) : ExecCase s i (raise e s)
  | read {i : Instr} {x : Word64} (hread : isRead i.opcode = true) (hx : resultShape i.opcode x) :
      ExecCase s i (done x s)
  | wrote {i : Instr} {d : StoreIdx} {X : Store} (hfile : isVector i.opcode = false) (hwrite : isRead i.opcode = false)
      (hX : s.Inv → X.length = s.cfg.bsN) : ExecCase s i (done 0 (s.setStore d X))
  | appended {w : Word32} {z : Quantized} (hroom : s.size < s.cfg.maxSize) :
      ExecCase s (.vappend w) (done 0 ((s.setVector (writeChunk s.cfg s.v s.size z)).setSize (s.size + 1)))
  | rewrote {n : Word64} {w : Word32} {z : Quantized} :
      ExecCase s (.vset n w) (done 0 (s.setVector (writeChunk s.cfg s.v n.toNat z)))

namespace ExecCase

variable {s : State} {i : Instr}

theorem legalStores {ks : List StoreIdx} {body : Result} (h : (∀ k ∈ ks, InFile s.cfg k) → ExecCase s i body) :
    ExecCase s i (Machine.legalStores ks s body) := by
  rcases legalStores_cases ks s body with ⟨hin, heq⟩ | ⟨-, heq⟩ <;> rw [heq]
  · exact h hin
  · exact .raised _

theorem atPosition (p : Word64) {body : Nat → Result} (h : ∀ k, ExecCase s i (body k)) :
    ExecCase s i (Machine.atPosition p s body) := by
  rcases atPosition_cases p s body with ⟨-, heq⟩ | ⟨-, heq⟩ <;> rw [heq]
  · exact h _
  · exact .raised _

theorem atEntry (n : Word64) {body : Nat → Result} (h : ExecCase s i (body n.toNat)) :
    ExecCase s i (Machine.atEntry n s body) := by
  rcases atEntry_cases n s body with ⟨-, heq⟩ | ⟨-, heq⟩ <;> rw [heq]
  · exact h
  · exact .raised _

theorem withEncoded (n : Nat) (w : Word32) {body : Store → Result}
    (h : ∀ z, ExecCase s i (body (writeChunk s.cfg s.v n z))) : ExecCase s i (Machine.withEncoded n w s body) := by
  rcases withEncoded_cases n w s body with ⟨z, -, heq⟩ | ⟨-, heq⟩ <;> rw [heq]
  · exact h z
  · exact .raised _

theorem combineStores (f : Bool → Bool → Bool) (sd sa sb : StoreIdx) (hfile : isVector i.opcode = false)
    (hwrite : isRead i.opcode = false) : ExecCase s i (Machine.combineStores f sd sa sb s) := by
  refine legalStores fun hin => .wrote hfile hwrite fun hs => ?_
  rw [List.length_zipWith, hs.length_store (hin sa (by simp)), hs.length_store (hin sb (by simp)), Nat.min_self]

end ExecCase

theorem resOfBool_zero_or_one (b : Bool) : resOfBool b = 0 ∨ resOfBool b = 1 := by
  cases b <;> decide

theorem toNat_resOfSample_lt (w : Word32) : (resOfSample w).toNat < 2 ^ 32 := by
  rw [resOfSample, BitVec.toNat_setWidth]
  exact (Nat.mod_le _ _).trans_lt w.isLt

theorem exec_cases (i : Instr) (s : State) : ExecCase s i (exec i s) := by
  cases i with
  | bzero sd => exact .legalStores fun _ => .wrote rfl rfl fun _ => length_zeroStore _
  | bldu sd u => exact .legalStores fun _ => .wrote rfl rfl fun _ => length_storeOfWord _ u
  | bget | btest => exact .legalStores fun _ => .atPosition _ fun _ => .read rfl (resOfBool_zero_or_one _)
  | bset sd p v =>
    exact .legalStores fun hin => .atPosition p fun k => .wrote rfl rfl fun hs =>
      (length_setCell _ _ _).trans (hs.length_store (hin sd (by simp)))
  | ball | bany | bnone | beq => exact .legalStores fun _ => .read rfl (resOfBool_zero_or_one _)
  | bcount => exact .legalStores fun _ => .read rfl trivial
  | band sd sa sb | bor sd sa sb | bxor sd sa sb => exact .combineStores _ sd sa sb rfl rfl
  | banda sd sb | bora sd sb | bxora sd sb => exact .combineStores _ sd sd sb rfl rfl
  | bnot sd sa =>
    exact .legalStores fun hin => .wrote rfl rfl fun hs =>
      (List.length_map not).trans (hs.length_store (hin sa (by simp)))
  | btou sa =>
    refine .legalStores fun _ => ?_
    split
    · exact .read rfl trivial
    · exact .raised _
  | vappend w =>
    rw [exec_vappend_eq_atFreeSlot]
    rcases atFreeSlot_cases s _ with ⟨hroom, heq⟩ | ⟨-, heq⟩ <;> rw [heq]
    · exact .withEncoded _ _ fun _ => .appended hroom
    · exact .raised _
  | vget n =>
    rw [exec_vget_eq_atEntry]
    exact .atEntry n (.read rfl (toNat_resOfSample_lt _))
  | vset n w =>
    rw [exec_vset_eq_atEntry]
    exact .atEntry n (.withEncoded _ w fun _ => .rewrote)
  | vsize => exact .read rfl trivial

/-! #### The invariant (R20, R21, R26, R29) -/

theorem State.Inv.setStore {s : State} (hs : s.Inv) (d : StoreIdx) {X : Store} (hX : X.length = s.cfg.bsN) :
    (s.setStore d X).Inv := by
  obtain ⟨hc, hcount, hcells, hrest⟩ := hs
  refine ⟨hc, (List.length_set ..).trans hcount, fun Y hY => ?_, hrest⟩
  rcases List.mem_or_eq_of_mem_set hY with hold | rfl
  · exact hcells Y hold
  · exact hX

theorem State.Inv.writeChunk {s : State} (hs : s.Inv) (n : Nat) (z : Quantized) :
    (s.setVector (Machine.writeChunk s.cfg s.v n z)).Inv := by
  obtain ⟨hc, hcount, hcells, hv, hsize⟩ := hs
  exact ⟨hc, hcount, hcells, (length_writeChunk s.cfg s.v n z).trans hv, hsize⟩

theorem State.Inv.setSize {s : State} (hs : s.Inv) {n : Nat} (hn : n ≤ s.cfg.maxSize) : (s.setSize n).Inv := by
  obtain ⟨hc, hcount, hcells, hv, -⟩ := hs
  exact ⟨hc, hcount, hcells, hv, hn⟩

/-- The invariant does not speak of the responses. -/
theorem State.Inv.respond {s : State} (hs : s.Inv) (a : Response) : (s.respond a).Inv := hs

/-- The invariant does not speak of the host's stream. -/
theorem State.Inv.takeInput {s : State} (hs : s.Inv) (rest : List Input) : (s.takeInput rest).Inv := hs

theorem ExecCase.inv {s t : State} {i : Instr} {r : Result} (h : ExecCase s i r) (hs : s.Inv) (hr : r = .next t) :
    t.Inv := by
  cases h with
  | raised => exact Host.Outcome.next.inj hr ▸ hs.respond _
  | read => exact Host.Outcome.next.inj hr ▸ hs.respond _
  | wrote _ _ hX => exact Host.Outcome.next.inj hr ▸ (hs.setStore _ (hX hs)).respond _
  | appended hroom => exact Host.Outcome.next.inj hr ▸ ((hs.writeChunk _ _).setSize hroom).respond _
  | rewrote => exact Host.Outcome.next.inj hr ▸ (hs.writeChunk _ _).respond _

theorem runRequest_inv {s t : State} {r : Request} (hs : s.Inv) (hr : runRequest r s = .next t) : t.Inv := by
  unfold runRequest at hr
  split at hr
  · exact Host.Outcome.next.inj hr ▸ hs.respond _
  next i _ => exact (exec_cases i s).inv hs hr

/-- What a step can do when it answers a next state: nothing, run the next request, or reset. -/
theorem step_cases {s t : State} (h : step s = .next t) :
    t = s ∨ (∃ r rest, runRequest r (s.takeInput rest) = .next t) ∨ s.cfg.Legal ∧ ∃ rest, t = s.afterReset rest := by
  unfold step at h
  split at h
  next hc =>
    split at h
    · exact .inl (Host.Outcome.next.inj h).symm
    next r rest _ =>
      split at h
      · exact .inr (.inl ⟨r, rest, h⟩)
      · contradiction
    · exact .inr (.inr ⟨hc, _, (Host.Outcome.next.inj h).symm⟩)
    · exact .inr (.inr ⟨hc, _, (Host.Outcome.next.inj h).symm⟩)
  next => contradiction

/-- Settles O12, from the three things a step can do and the invariant being kept by each of a command's. -/
theorem stepKeepsInvariant : Obligations.StepKeepsInvariant := by
  intro s t hs hstep
  rcases step_cases hstep with rfl | ⟨r, rest, hrun⟩ | ⟨hc, rest, rfl⟩
  · exact hs
  · exact runRequest_inv (hs.takeInput rest) hrun
  · exact State.afterReset_inv hc rest

/-! #### Reads, results and `size` (R26, R47, R63) -/

theorem ExecCase.onlyAnswered {s : State} {i : Instr} {r : Result} (h : ExecCase s i r)
    (hread : isRead i.opcode = true) : ∃ t a, r = .next t ∧ OnlyAnswered s t a := by
  cases h with
  | raised e => exact ⟨_, _, raise_eq e s, onlyAnswered_respond s _⟩
  | read => exact ⟨_, _, done_eq _ s, onlyAnswered_respond s _⟩
  | wrote _ hwrite => exact absurd hread (by simp [hwrite])
  | appended | rewrote => contradiction

/-- Settles O18: of the things a command can do, a reading one can only answer. -/
theorem readsChangeNothing : Obligations.ReadsChangeNothing :=
  fun i s hread => (exec_cases i s).onlyAnswered hread

/-- The error a command ends with is the one it answers. -/
theorem answer_of_exec_eq_raise {i : Instr} {s t : State} {e : Err} (h : exec i s = raise e t) :
    answer i s = some ⟨.err e, 0⟩ := by
  simp [answer, h, raise_eq, lastResponse]

/-- A writing command has no result (R63). -/
theorem resultShape_zero {o : Opcode} (h : isRead o = false) : resultShape o 0 := by
  cases o with
  | bget | btest | ball | bany | bnone | bcount | beq | btou | vget | vsize => contradiction
  | _ => rfl

theorem ExecCase.answer_placed {s : State} {i : Instr} {r : Result} (h : ExecCase s i r) (hexec : exec i s = r) :
    (∃ e, answer i s = some ⟨.err e, 0⟩) ∨ ∃ x, answer i s = some ⟨.ok, x⟩ ∧ resultShape i.opcode x := by
  cases h with
  | raised e => exact .inl ⟨e, answer_of_exec_eq_raise hexec⟩
  | read _ hx => exact .inr ⟨_, answer_of_exec_eq_done hexec, hx⟩
  | wrote _ hwrite => exact .inr ⟨0, answer_of_exec_eq_done hexec, resultShape_zero hwrite⟩
  | appended | rewrote => exact .inr ⟨0, answer_of_exec_eq_done hexec, resultShape_zero rfl⟩

/-- Settles O17: a command ends with an error and `res = 0`, or with OK and a result of its shape. -/
theorem resultsArePlaced : Obligations.ResultsArePlaced := by
  intro i s
  rcases (exec_cases i s).answer_placed rfl with ⟨e, hanswer⟩ | ⟨x, hanswer, hx⟩
  · exact ⟨_, hanswer, fun _ _ => rfl, nofun⟩
  · exact ⟨_, hanswer, nofun, fun _ => hx⟩

theorem ExecCase.size {s t : State} {i : Instr} {r : Result} (h : ExecCase s i r) (hr : r = .next t) :
    t.size = s.size ∨
      (i.opcode = .vappend ∧ s.size < s.cfg.maxSize ∧ t.size = s.size + 1 ∧
        t.responses = s.responses ++ [⟨.ok, 0⟩]) := by
  cases h with
  | raised | read | wrote | rewrote => exact .inl (Host.Outcome.next.inj hr ▸ rfl)
  | appended hroom => exact .inr (Host.Outcome.next.inj hr ▸ ⟨rfl, hroom, rfl, rfl⟩)

/-- Settles O20: of the things a command can do, only appending an entry writes `size`. -/
theorem sizeOnlyGrowsByAppend : Obligations.SizeOnlyGrowsByAppend :=
  fun i s _ hexec => (exec_cases i s).size hexec

/-- Settles O6: every command checks its store indices before anything else, and only VAPPEND's later check needs a bound
on `size`, which has no store index. -/
theorem storeIndexOutsideFile : Obligations.StoreIndexOutsideFile := by
  rintro i s ⟨k, hk, hout⟩
  have hstores : i.opcode ≠ .vappend := by
    intro h
    cases i <;> contradiction
  obtain ⟨body, hexec, -⟩ := exec_checks_stores fun h => absurd h hstores
  rw [hexec, legalStores_outside hk hout]
  exact raise_onlyAnswered .illegalCommand s

end Sys2Proof.Machine

/-! ### The two parts of the state (`spec/10_state.md`, rules R22, R25, R28) -/

namespace Sys2Proof.Machine

/-- A part of the state that commands act on: how it is read and how it is replaced. -/
structure Part (α : Type) where
  view : State → α
  put : State → α → State

/-- The stores of the file. -/
def filePart : Part (List Store) := ⟨State.stores, fun s X => { s with stores := X }⟩

/-- The Sample Vector: its store and `size`. -/
def vectorPart : Part (Store × Nat) := ⟨fun s => (s.v, s.size), fun s X => (s.setVector X.1).setSize X.2⟩

/-- A meaning that always gives one response, replaces the part and nothing else, and takes both the response and the new
part from the configuration and the old part alone. -/
def ActsOn {α : Type} (P : Part α) (m : State → Result) : Prop :=
  ∃ f : Params → α → Response × α,
    ∀ s, m s = .next ((P.put s (f s.cfg (P.view s)).2).respond (f s.cfg (P.view s)).1)

namespace ActsOn

variable {α : Type} {P : Part α}

theorem done (x : Params → α → Word64) (g : Params → α → α) :
    ActsOn P fun s => Machine.done (x s.cfg (P.view s)) (P.put s (g s.cfg (P.view s))) :=
  ⟨fun c X => (⟨.ok, x c X⟩, g c X), fun _ => rfl⟩

theorem raise (e : Err) (hput : ∀ s, P.put s (P.view s) = s := by intros; rfl) : ActsOn P (Machine.raise e) :=
  ⟨fun _ X => (⟨.err e, 0⟩, X), fun s => by rw [hput, raise_eq]⟩

/-- A check of the configuration and the part takes the same branch in every state that agrees in them. -/
theorem ite (c : Params → α → Prop) [∀ p X, Decidable (c p X)] {m m' : State → Result} (hm : ActsOn P m)
    (hm' : ActsOn P m') : ActsOn P fun s => if c s.cfg (P.view s) then m s else m' s := by
  obtain ⟨f, hf⟩ := hm
  obtain ⟨f', hf'⟩ := hm'
  refine ⟨fun p X => if c p X then f p X else f' p X, fun s => ?_⟩
  by_cases h : c s.cfg (P.view s)
  · simp only [if_pos h, hf]
  · simp only [if_neg h, hf']

/-! #### The commands on the file -/

theorem legalStores (ks : List StoreIdx) {m : State → Result} (hm : ActsOn filePart m) :
    ActsOn filePart fun s => Machine.legalStores ks s (m s) :=
  ite (fun c _ => ∀ k ∈ ks, InFile c k) hm (raise .illegalCommand)

theorem atPosition (p : Word64) {m : State → Nat → Result} (hm : ∀ k, ActsOn filePart (m · k)) :
    ActsOn filePart fun s => Machine.atPosition p s (m s) :=
  ite (fun c _ => p.toNat < c.bsN) (hm p.toNat) (raise .rangeError)

/-- A result read from the file. -/
theorem fileRead (x : Params → List Store → Word64) : ActsOn filePart fun s => Machine.done (x s.cfg s.stores) s :=
  done (P := filePart) x fun _ X => X

/-- A store of the file replaced by one computed from the file. -/
theorem fileWrite (d : StoreIdx) (X : Params → List Store → Store) :
    ActsOn filePart fun s => Machine.done 0 (s.setStore d (X s.cfg s.stores)) :=
  done (P := filePart) (fun _ _ => 0) fun c S => S.set d.toNat (X c S)

theorem combineStores (f : Bool → Bool → Bool) (sd sa sb : StoreIdx) :
    ActsOn filePart (Machine.combineStores f sd sa sb) :=
  legalStores _ (fileWrite sd fun _ S => List.zipWith f (S.getD sa.toNat []) (S.getD sb.toNat []))

theorem reduceStore (sa : StoreIdx) (f : Store → Word64) : ActsOn filePart (Machine.reduceStore sa f) :=
  legalStores _ (fileRead fun _ S => f (S.getD sa.toNat []))

theorem readBit (sa : StoreIdx) (p : Word64) : ActsOn filePart (Machine.readBit sa p) :=
  legalStores _ (atPosition p fun k => fileRead fun _ S => resOfBool (cell (S.getD sa.toNat []) k))

theorem exec_file {i : Instr} (hi : isVector i.opcode = false) : ActsOn filePart (exec i) := by
  cases i with
  | bzero sd => exact legalStores _ (fileWrite sd fun c _ => zeroStore c.bsN)
  | bldu sd u => exact legalStores _ (fileWrite sd fun c _ => storeOfWord c.bsN u)
  | bget sa p | btest sa p => exact readBit sa p
  | bset sd p v =>
    exact legalStores _ (atPosition p fun k => fileWrite sd fun _ S => setCell (S.getD sd.toNat []) k v)
  | ball sa => exact reduceStore sa fun X => resOfBool (X.all id)
  | bany sa => exact reduceStore sa fun X => resOfBool (X.any id)
  | bnone sa => exact reduceStore sa fun X => resOfBool (X.all not)
  | bcount sa => exact reduceStore sa fun X => resOfNat (X.count true)
  | band sd sa sb | bor sd sa sb | bxor sd sa sb => exact combineStores _ sd sa sb
  | banda sd sb | bora sd sb | bxora sd sb => exact combineStores _ sd sd sb
  | bnot sd sa => exact legalStores _ (fileWrite sd fun _ S => (S.getD sa.toNat []).map not)
  | beq sa sb => exact legalStores _ (fileRead fun _ S => resOfBool (S.getD sa.toNat [] == S.getD sb.toNat []))
  | btou sa =>
    exact legalStores _ (ite (fun c _ => c.bsN ≤ Params.uw)
      (fileRead fun _ S => resOfNat (natOfStore (S.getD sa.toNat []))) (raise .widthError))
  | vappend | vget | vset | vsize => contradiction

/-! #### The commands on the Sample Vector -/

theorem atEntry (n : Word64) {m : State → Nat → Result} (hm : ∀ k, ActsOn vectorPart (m · k)) :
    ActsOn vectorPart fun s => Machine.atEntry n s (m s) :=
  ite (P := vectorPart) (fun _ X => n.toNat < X.2) (hm n.toNat) (raise .boundsError)

theorem withEncoded (n : Nat) (w : Word32) {m : State → Store → Result} (hm : ∀ V, ActsOn vectorPart (m · V)) :
    ActsOn vectorPart fun s => Machine.withEncoded n w s (m s) := by
  choose f hf using hm
  obtain ⟨g, hg⟩ : ActsOn vectorPart (Machine.raise .invalidSample) := raise .invalidSample
  refine ⟨fun c X => (encodeChunk c X.1 n w).elim (g c X) fun V => f V c X, fun s => ?_⟩
  have view : (vectorPart.view s).1 = s.v := rfl
  simp only [Machine.withEncoded, view]
  cases encodeChunk s.cfg s.v n w with
  | none => exact hg s
  | some V => exact hf V s

/-- The index of the free slot is `size`, which is of the part. -/
theorem atFreeSlot {m : State → Nat → Result} (hm : ∀ k, ActsOn vectorPart (m · k)) :
    ActsOn vectorPart fun s => Machine.atFreeSlot s (m s) := by
  choose f hf using hm
  exact ite (P := vectorPart) (fun c X => X.2 < c.maxSize) ⟨fun c X => f X.2 c X, fun s => hf s.size s⟩
    (raise .capacityError)

theorem exec_vector {i : Instr} (hi : isVector i.opcode = true) : ActsOn vectorPart (exec i) := by
  cases i with
  | vappend w =>
    show ActsOn vectorPart (execVappend w)
    exact atFreeSlot fun n => withEncoded n w fun V => done (P := vectorPart) (fun _ _ => 0) fun _ _ => (V, n + 1)
  | vget n =>
    show ActsOn vectorPart (execVget n)
    exact atEntry n fun k => done (P := vectorPart) (fun c X => resOfSample (decodeChunk c X.1 k)) fun _ X => X
  | vset n w =>
    show ActsOn vectorPart (execVset n w)
    exact atEntry n fun k => withEncoded k w fun V => done (P := vectorPart) (fun _ _ => 0) fun _ X => (V, X.2)
  | vsize => exact done (P := vectorPart) (fun _ X => resOfNat X.2) fun _ X => X
  | _ => contradiction

end ActsOn

/-- Settles O13: a command acts on one of the two parts of the state. -/
theorem everyCommandAnswersOnce : Obligations.EveryCommandAnswersOnce := by
  intro i s
  cases hi : isVector i.opcode with
  | false =>
    obtain ⟨f, hf⟩ := ActsOn.exec_file hi
    exact ⟨_, _, hf s, ⟨rfl, rfl, rfl, rfl⟩, nofun, fun _ => ⟨rfl, rfl⟩⟩
  | true =>
    obtain ⟨f, hf⟩ := ActsOn.exec_vector hi
    exact ⟨_, _, hf s, ⟨rfl, rfl, rfl, rfl⟩, fun _ => rfl, nofun⟩

/-- Settles O22: the response and the new part are one function of the configuration and the old part. -/
theorem fileAndVectorIsolated : Obligations.FileAndVectorIsolated := by
  intro i s s' hcfg
  refine ⟨fun hi hstores => ?_, fun hi hv hsize => ?_⟩
  · obtain ⟨f, hf⟩ := ActsOn.exec_file hi
    have hview : filePart.view s' = filePart.view s := hstores
    have hf' := hf s'
    rw [hcfg, hview] at hf'
    exact ⟨_, _, _, hf s, hf', ⟨rfl, rfl, rfl, rfl⟩, ⟨rfl, rfl, rfl, rfl⟩, rfl⟩
  · obtain ⟨f, hf⟩ := ActsOn.exec_vector hi
    have hview : vectorPart.view s' = vectorPart.view s := Prod.ext hv hsize
    have hf' := hf s'
    rw [hcfg, hview] at hf'
    exact ⟨_, _, _, hf s, hf', ⟨rfl, rfl, rfl, rfl⟩, ⟨rfl, rfl, rfl, rfl⟩, rfl, rfl⟩

end Sys2Proof.Machine

/-! ### The cells of one chunk (`spec/43_fixed_point_codec.md`, rules R126 to R128) -/

namespace Sys2Proof.Machine

/-- Position `p` lies in chunk `n`. -/
def InChunk (c : Params) (n p : Nat) : Prop := n * c.chunkBits ≤ p ∧ p < (n + 1) * c.chunkBits

theorem inChunk_or_outside (c : Params) (n p : Nat) :
    InChunk c n p ∨ (p < n * c.chunkBits ∨ (n + 1) * c.chunkBits ≤ p) := by
  unfold InChunk
  omega

/-- Different chunks share no cell (R46). -/
theorem InChunk.outside {c : Params} {n m p : Nat} (hp : InChunk c n p) (hne : n ≠ m) :
    p < m * c.chunkBits ∨ (m + 1) * c.chunkBits ≤ p := by
  obtain ⟨hbase, hend⟩ := hp
  rcases Nat.lt_or_gt_of_ne hne with hlt | hgt
  · exact .inl (hend.trans_le (Nat.mul_le_mul_right _ hlt))
  · exact .inr ((Nat.mul_le_mul_right _ hgt).trans hbase)

theorem InChunk.lt_of_lt {c : Params} {n m p : Nat} (hp : InChunk c n p) (h : n < m) : p < m * c.chunkBits :=
  hp.right.trans_le (Nat.mul_le_mul_right _ h)

/-- The sign cell and the two fields are all the cells of a chunk (R126). -/
theorem ChunkHolds.cell_eq {c : Params} {V W : Store} {n p : Nat} {z : Quantized} (hV : ChunkHolds c V n z)
    (hW : ChunkHolds c W n z) (hp : InChunk c n p) : cell V p = cell W p := by
  obtain ⟨hbase, hend⟩ := hp
  rw [chunk_end] at hend
  obtain ⟨hsign, hi, hd⟩ := hV
  obtain ⟨hsign', hi', hd'⟩ := hW
  obtain ⟨k, rfl⟩ := Nat.exists_eq_add_of_le hbase
  rcases Nat.lt_or_ge k c.signWidth with hk | hk
  · have hS : c.signBit = true := by
      by_contra hS
      rw [Params.signWidth, Bool.eq_false_iff.mpr hS] at hk
      exact Nat.not_lt_zero k hk
    obtain rfl : k = 0 := by
      rw [signWidth_of_true hS] at hk
      omega
    exact (hsign hS).trans (hsign' hS).symm
  · obtain ⟨j, rfl⟩ := Nat.exists_eq_add_of_le hk
    rw [← Nat.add_assoc] at hend ⊢
    rcases Nat.lt_or_ge j c.integralBits with hj | hj
    · exact (hi j hj).trans (hi' j hj).symm
    · obtain ⟨l, rfl⟩ := Nat.exists_eq_add_of_le hj
      rw [← Nat.add_assoc] at hend ⊢
      exact (hd l (by omega)).trans (hd' l (by omega)).symm

/-- A chunk write makes the chunk the same whatever it held, and keeps what the two stores have in common elsewhere. -/
theorem cell_writeChunk_congr {c : Params} {V W : Store} {n p : Nat} (z : Quantized) (hlen : W.length = V.length)
    (hV : (n + 1) * c.chunkBits ≤ V.length) (h : ¬ InChunk c n p → cell W p = cell V p) :
    cell (writeChunk c W n z) p = cell (writeChunk c V n z) p := by
  by_cases hp : InChunk c n p
  · exact (writeChunk_holds (hlen ▸ hV) z).cell_eq (writeChunk_holds hV z) hp
  · have hout := (inChunk_or_outside c n p).resolve_left hp
    rw [(writeChunk_others c W n z).right p hout, (writeChunk_others c V n z).right p hout, h hp]

/-- Writing the same fields to a chunk again changes nothing. -/
theorem writeChunk_writeChunk {c : Params} {V : Store} {n : Nat} (z : Quantized)
    (hV : (n + 1) * c.chunkBits ≤ V.length) : writeChunk c (writeChunk c V n z) n z = writeChunk c V n z := by
  refine store_ext (by simp) fun p _ => cell_writeChunk_congr z (length_writeChunk c V n z) hV fun hp => ?_
  exact (writeChunk_others c V n z).right p ((inChunk_or_outside c n p).resolve_left hp)

/-- Decoding reads the cells of the chunk and no other (R128). -/
theorem decodeChunk_congr {c : Params} {V W : Store} {n : Nat} (h : ∀ p, InChunk c n p → cell W p = cell V p) :
    decodeChunk c W n = decodeChunk c V n := by
  have hend := chunk_end c n
  have hfield (b w : Nat) (hb : n * c.chunkBits ≤ b) (hw : b + w ≤ (n + 1) * c.chunkBits) :
      fieldRead W b w = fieldRead V b w := by
    simp only [fieldRead_eq_fieldSum, fieldSum]
    refine Finset.sum_congr rfl fun j hj => ?_
    have hj := Finset.mem_range.mp hj
    rw [h (b + j) ⟨by omega, by omega⟩]
  have hsign : chunkNeg c W n = chunkNeg c V n := by
    unfold chunkNeg chunkBase
    cases hS : c.signBit with
    | false => rfl
    | true =>
      have hwidth := signWidth_of_true hS
      rw [h _ ⟨le_rfl, by omega⟩]
  rw [decodeChunk, decodeChunk, hsign, chunkQ, chunkQ, intPos, fracPos, chunkBase,
    hfield _ _ (by omega) (by omega), hfield _ _ (by omega) (by omega)]

/-! #### Other commands keep an entry (R142, R145) -/

/-- Of the three effects on the vector, only rewriting the entry itself touches its chunk. -/
theorem VectorEffect.keeps_chunk {s t : State} {a : Response} {i : Instr} {n p : Nat} (h : VectorEffect s t a i)
    (hn : n < s.size) (hi : ∀ k w, i = .vset k w → k.toNat ≠ n) (hp : InChunk s.cfg n p) :
    cell t.v p = cell s.v p := by
  cases h with
  | kept hkept => rw [hkept.left]
  | appended _ _ hv => rw [hv, (writeChunk_others ..).right p (hp.outside hn.ne)]
  | rewrote _ _ hv => rw [hv, (writeChunk_others ..).right p (hp.outside (hi _ _ rfl).symm)]

/-- No command shortens the vector (R26). -/
theorem VectorEffect.size_ge {s t : State} {a : Response} {i : Instr} (h : VectorEffect s t a i) : s.size ≤ t.size := by
  rw [h.size_eq]
  exact Nat.le_add_right _ _

/-- Settles O57, from VGET reading the chunk of its entry, which the command leaves as it is. -/
theorem otherCommandsKeepEntry : Obligations.OtherCommandsKeepEntry := by
  intro s t i n _ hn hi hexec
  obtain ⟨u, a, hexec', ⟨-, -, -, hcfg⟩, heffect⟩ := exec_vectorEffect i s
  obtain rfl : t = u := Host.Outcome.next.inj (hexec.symm.trans hexec')
  have hchunk : ∀ p, InChunk s.cfg n.toNat p → cell t.v p = cell s.v p := fun p hp =>
    heffect.keeps_chunk hn (fun k w hw heq => hi k w hw (BitVec.eq_of_toNat_eq heq)) hp
  rw [answer_vget (hn.trans_le heffect.size_ge), answer_vget hn, hcfg, decodeChunk_congr hchunk]

/-! #### The slots no append has populated (R28, R34) -/

/-- Two stores of one length that agree in the first `n` chunks. -/
def SameChunks (c : Params) (n : Nat) (V W : Store) : Prop :=
  W.length = V.length ∧ ∀ p < n * c.chunkBits, cell W p = cell V p

/-- One more chunk is the same after it is written. -/
theorem SameChunks.writeChunk_next {c : Params} {n : Nat} {V W : Store} (h : SameChunks c n V W) (z : Quantized)
    (hV : (n + 1) * c.chunkBits ≤ V.length) : SameChunks c (n + 1) (writeChunk c V n z) (writeChunk c W n z) := by
  obtain ⟨hlen, hcells⟩ := h
  refine ⟨by simp [hlen], fun p hp => cell_writeChunk_congr z hlen hV fun hout => hcells p ?_⟩
  unfold InChunk at hout
  omega

/-- Writing any chunk keeps the chunks the same that were. -/
theorem SameChunks.writeChunk {c : Params} {n m : Nat} {V W : Store} (h : SameChunks c n V W) (z : Quantized)
    (hV : (m + 1) * c.chunkBits ≤ V.length) : SameChunks c n (writeChunk c V m z) (writeChunk c W m z) := by
  obtain ⟨hlen, hcells⟩ := h
  exact ⟨by simp [hlen], fun p hp => cell_writeChunk_congr z hlen hV fun _ => hcells p hp⟩

/-- `s` with another vector store that agrees with its own in the populated slots. -/
def DiffersInFreeSlots (s s' : State) : Prop := ∃ V, s' = s.setVector V ∧ SameChunks s.cfg s.size s.v V

theorem exec_file_setVector {i : Instr} (hi : isVector i.opcode = false) (s : State) (V : Store) :
    ∃ t, exec i s = .next t ∧ t.cfg = s.cfg ∧ VectorKept s t ∧ exec i (s.setVector V) = .next (t.setVector V) := by
  obtain ⟨f, hf⟩ := ActsOn.exec_file hi
  exact ⟨_, hf s, rfl, ⟨rfl, rfl⟩, hf (s.setVector V)⟩

/-- From `s` and from `s` with the vector store `V`, the meaning leads to states that again differ in free slots only. -/
def KeepsDifference (m : State → Result) (s : State) (V : Store) : Prop :=
  ∃ t t', m s = .next t ∧ m (s.setVector V) = .next t' ∧ DiffersInFreeSlots t t'

theorem raise_keepsDifference (e : Err) {s : State} {V : Store} (h : SameChunks s.cfg s.size s.v V) :
    KeepsDifference (raise e) s V :=
  ⟨_, _, raise_eq e _, raise_eq e _, V, rfl, h⟩

theorem done_keepsDifference (x : Word64) {s : State} {V : Store} (h : SameChunks s.cfg s.size s.v V) :
    KeepsDifference (done x) s V :=
  ⟨_, _, done_eq x _, done_eq x _, V, rfl, h⟩


/-- The quantized sample does not depend on the vector's store, so both states get the same chunk. -/
theorem exec_vappend_keepsDifference (w : Word32) {s : State} {V : Store} (hs : s.Inv)
    (h : SameChunks s.cfg s.size s.v V) :
    KeepsDifference (exec (.vappend w)) s V := by
  unfold KeepsDifference
  obtain ⟨-, -, -, hlen, -⟩ := hs
  rcases Nat.lt_or_ge s.size s.cfg.maxSize with hroom | hfull
  · by_cases hw : classOf w = .nan
    · rw [exec_vappend_nan hroom hw, exec_vappend_nan (s := s.setVector V) hroom hw]
      exact raise_keepsDifference _ h
    · obtain ⟨q, -, hz⟩ := exists_quantize s.cfg hw
      exact ⟨_, _, (exec_vappend hroom hz).trans (done_eq _ _),
        (exec_vappend (s := s.setVector V) hroom hz).trans (done_eq _ _), _, rfl,
        h.writeChunk_next _ (chunk_le_length hlen hroom)⟩
  · rw [exec_vappend_full hfull, exec_vappend_full (s := s.setVector V) hfull]
    exact raise_keepsDifference _ h

theorem exec_vset_keepsDifference (n : Word64) (w : Word32) {s : State} {V : Store} (hs : s.Inv)
    (h : SameChunks s.cfg s.size s.v V) :
    KeepsDifference (exec (.vset n w)) s V := by
  unfold KeepsDifference
  obtain ⟨-, -, -, hlen, hsize⟩ := hs
  rcases Nat.lt_or_ge n.toNat s.size with hn | hout
  · by_cases hw : classOf w = .nan
    · rw [exec_vset_nan hn hw, exec_vset_nan (s := s.setVector V) hn hw]
      exact raise_keepsDifference _ h
    · obtain ⟨q, -, hz⟩ := exists_quantize s.cfg hw
      exact ⟨_, _, (exec_vset hn hz).trans (done_eq _ _), (exec_vset (s := s.setVector V) hn hz).trans (done_eq _ _), _,
        rfl, h.writeChunk _ (chunk_le_length hlen (hn.trans_le hsize))⟩
  · rw [exec_vset_outside hout, exec_vset_outside (s := s.setVector V) hout]
    exact raise_keepsDifference _ h

/-- VGET decodes a populated slot, where the two states agree. -/
theorem exec_vget_keepsDifference (n : Word64) {s : State} {V : Store} (h : SameChunks s.cfg s.size s.v V) :
    KeepsDifference (exec (.vget n)) s V := by
  unfold KeepsDifference
  rcases Nat.lt_or_ge n.toNat s.size with hn | hout
  · have hdecode : decodeChunk s.cfg V n.toNat = decodeChunk s.cfg s.v n.toNat :=
      decodeChunk_congr fun p hp => h.right p (hp.lt_of_lt hn)
    rw [exec_vget hn, exec_vget (s := s.setVector V) hn, State.setVector_v, State.setVector_cfg, hdecode]
    exact done_keepsDifference _ h
  · rw [exec_vget_outside hout, exec_vget_outside (s := s.setVector V) hout]
    exact raise_keepsDifference _ h

/-- The relation is a simulation: every command keeps it. -/
theorem exec_differsInFreeSlots (i : Instr) {s s' : State} (hs : s.Inv) (h : DiffersInFreeSlots s s') :
    ∃ t t', exec i s = .next t ∧ exec i s' = .next t' ∧ DiffersInFreeSlots t t' := by
  obtain ⟨V, rfl, hV⟩ := h
  cases hi : isVector i.opcode with
  | false =>
    obtain ⟨t, hexec, hcfg, ⟨hv, hsize⟩, hexec'⟩ := exec_file_setVector hi s V
    refine ⟨t, _, hexec, hexec', V, rfl, ?_⟩
    rwa [hcfg, hv, hsize]
  | true =>
    cases i with
    | vappend w => exact exec_vappend_keepsDifference w hs hV
    | vset n w => exact exec_vset_keepsDifference n w hs hV
    | vget n => exact exec_vget_keepsDifference n hV
    | vsize => exact done_keepsDifference _ hV
    | _ => contradiction

theorem execAll_differsInFreeSlots (is : List Instr) {s s' : State} (hs : s.Inv) (h : DiffersInFreeSlots s s') :
    ∃ t t', execAll is s = .next t ∧ execAll is s' = .next t' ∧ DiffersInFreeSlots t t' := by
  induction is generalizing s s' with
  | nil => exact ⟨s, s', rfl, rfl, h⟩
  | cons i is ih =>
    obtain ⟨t, t', hexec, hexec', hnext⟩ := exec_differsInFreeSlots i hs h
    obtain ⟨u, u', hrun, hrun', hlast⟩ := ih ((exec_cases i s).inv hs hexec) hnext
    refine ⟨u, u', ?_, ?_, hlast⟩
    · rwa [execAll, hexec]
    · rwa [execAll, hexec']

/-- Settles O23, from the simulation between states that differ in unpopulated slots only: such states have given the
same responses. -/
theorem unpopulatedSlotsUnobservable : Obligations.UnpopulatedSlotsUnobservable := by
  intro s V is hs hlen hcells
  obtain ⟨t, t', hrun, hrun', W, rfl, -⟩ := execAll_differsInFreeSlots is hs ⟨V, rfl, hlen, hcells⟩
  exact ⟨t, _, hrun, hrun', rfl⟩

end Sys2Proof.Machine

/-! ### Writing a store of the file twice (`spec/20_memory.md`, rule R47; `spec/42_bitstore_algebra.md`, R108, R111) -/

namespace Sys2Proof.Machine

theorem State.store_setStore (s : State) {d : StoreIdx} (hd : d.toNat < s.stores.length) (X : Store) (k : StoreIdx) :
    (s.setStore d X).store k = if k = d then X else s.store k := by
  split
  next h => rw [h, s.store_setStore_same hd]
  next h => exact s.store_setStore_ne h X

/-- Writing the contents a store has changes nothing. -/
theorem State.setStore_store_stores (s : State) (d : StoreIdx) : (s.setStore d (s.store d)).stores = s.stores := by
  simp only [State.setStore_stores, State.store]
  refine List.ext_getElem (by simp) fun j hj hj' => ?_
  rw [List.getElem_set]
  split
  next h => simp [h, hj']
  next => rfl

theorem combineStores_of_inFile (f : Bool → Bool → Bool) {s : State} {sd sa sb : StoreIdx} (hd : InFile s.cfg sd)
    (ha : InFile s.cfg sa) (hb : InFile s.cfg sb) :
    combineStores f sd sa sb s = done 0 (s.setStore sd (List.zipWith f (s.store sa) (s.store sb))) :=
  legalStores_triple hd ha hb _

/-- The state after a command that wrote `X` to `B[d]` and has no result. -/
abbrev State.wrote (s : State) (d : StoreIdx) (X : Store) : State := (s.setStore d X).respond ⟨.ok, 0⟩

/-- A second write of the same store decides what it holds. -/
theorem execAll_writes_twice {i j : Instr} {s : State} {d : StoreIdx} {X Y : Store}
    (hi : exec i s = done 0 (s.setStore d X)) (hj : exec j (s.wrote d X) = done 0 ((s.wrote d X).setStore d Y)) :
    ∃ t, execAll [i, j] s = .next t ∧ t.stores = (s.setStore d Y).stores :=
  ⟨(s.wrote d X).wrote d Y, by simp only [execAll, hi, hj, done_eq], by simp⟩

/-! #### Pseudo-commands (R72) -/

/-- Settles O8: the disjunction of a store with itself is the store. -/
theorem pseudoCommandsCopyAndFlip : Obligations.PseudoCommandsCopyAndFlip := by
  intro s d a hs hd ha
  refine ⟨?_, bnotComplementsCells s d d hs hd hd⟩
  obtain ⟨t, hexec, hwrote, hcells⟩ := combineStores_writes_cells or hs hd ha ha
  have hlen : (t.store d).length = s.cfg.bsN := by
    obtain ⟨-, -, -, hcells⟩ := hwrote
    exact hcells
  refine ⟨t, hexec, hwrote, store_ext (hlen.trans (hs.length_store ha).symm) fun p hp => ?_⟩
  rw [hcells p (hlen ▸ hp), Bool.or_self]

/-! #### Boolean laws (R108, R111) -/

theorem bnot_twice {s : State} {d : StoreIdx} (hs : s.Inv) (hd : InFile s.cfg d) :
    ∃ t, execAll [.bnot d d, .bnot d d] s = .next t ∧ t.stores = s.stores := by
  have hrestored : ((s.wrote d ((s.store d).map not)).store d).map not = s.store d := by
    rw [State.respond_store, s.store_setStore_same (hs.lt_length_stores hd)]
    simp [Function.comp_def]
  have hsecond := exec_bnot (s := s.wrote d ((s.store d).map not)) hd hd
  rw [hrestored] at hsecond
  rw [← s.setStore_store_stores d]
  exact execAll_writes_twice (exec_bnot hd hd) hsecond

theorem zipWith_xor_twice {X Y : Store} (h : X.length = Y.length) : List.zipWith xor (List.zipWith xor X Y) Y = X := by
  refine store_ext (by simp [h]) fun p hp => ?_
  have hp : p < X.length ∧ p < Y.length := by simpa using hp
  obtain ⟨hX, hY⟩ := hp
  rw [cell_zipWith (by simp [hX, hY]) hY, cell_zipWith hX hY]
  simp

theorem bxora_twice {s : State} {d a : StoreIdx} (hs : s.Inv) (hd : InFile s.cfg d) (ha : InFile s.cfg a)
    (hne : d ≠ a) :
    ∃ t, execAll [.bxora d a, .bxora d a] s = .next t ∧ t.stores = s.stores := by
  have hlen : (s.store d).length = (s.store a).length := (hs.length_store hd).trans (hs.length_store ha).symm
  have hrestored : List.zipWith xor ((s.wrote d (List.zipWith xor (s.store d) (s.store a))).store d)
      ((s.wrote d (List.zipWith xor (s.store d) (s.store a))).store a) = s.store d := by
    rw [State.respond_store, State.respond_store, s.store_setStore_same (hs.lt_length_stores hd),
      s.store_setStore_ne hne.symm, zipWith_xor_twice hlen]
  have hsecond := combineStores_of_inFile xor (s := s.wrote d (List.zipWith xor (s.store d) (s.store a))) hd hd ha
  rw [hrestored] at hsecond
  rw [← s.setStore_store_stores d]
  exact execAll_writes_twice (combineStores_of_inFile xor hd hd ha) hsecond

theorem count_map_not (X : Store) : (X.map not).count true = X.length - X.count true := by
  induction X with
  | nil => rfl
  | cons b X ih =>
    have hle : X.count true ≤ X.length := List.count_le_length
    cases b with
    | false =>
      simp only [List.map_cons, Bool.not_false, List.count_cons_self, ih, List.length_cons]
      simp
      omega
    | true => simp [ih]

/-- BCOUNT after BNOT counts the cells that were 0 (R111). -/
theorem bcount_after_bnot {s : State} {d a : StoreIdx} (hs : s.Inv) (hd : InFile s.cfg d) (ha : InFile s.cfg a) :
    ∃ t x y, answer (.bcount a) s = some ⟨.ok, x⟩ ∧ exec (.bnot d a) s = .next t ∧
      answer (.bcount d) t = some ⟨.ok, y⟩ ∧ y.toNat = s.cfg.bsN - x.toNat := by
  have hlen : ((s.store a).map not).length = s.cfg.bsN := (List.length_map not).trans (hs.length_store ha)
  have ht : (s.wrote d ((s.store a).map not)).Inv := (hs.setStore d hlen).respond _
  refine ⟨_, _, _, answer_of_exec_eq_done (exec_bcount ha), (exec_bnot hd ha).trans (done_eq _ _),
    answer_of_exec_eq_done (exec_bcount hd), ?_⟩
  rw [ht.toNat_resOfNat_count hd, hs.toNat_resOfNat_count ha, State.respond_store,
    s.store_setStore_same (hs.lt_length_stores hd), count_map_not, hs.length_store ha]

/-- Settles O38, law by law. -/
theorem booleanLaws : Obligations.BooleanLaws := by
  intro s d a hs hd ha
  refine ⟨bnot_twice hs hd, bxora_twice hs hd ha, ?_, bcount_after_bnot hs hd ha⟩
  obtain ⟨t, hexec, -, hcells⟩ := combineStores_writes_cells xor hs hd ha ha
  exact ⟨t, hexec, fun p hp => (hcells p hp).trans (Bool.xor_self _)⟩

/-! #### Idempotency (R47) -/

/-- The command, issued in `t`, writes nothing new. -/
def Repeats (i : Instr) (t : State) : Prop := ∃ u, exec i t = .next u ∧ FileKept t u ∧ VectorKept t u

/-- A command that only answered does the same again, since no command reads the responses (R25). -/
theorem repeats_of_respond {i : Instr} {s : State} {a : Response} (h : exec i s = .next (s.respond a)) :
    Repeats i (s.respond a) := by
  obtain ⟨u, u', -, hu, hu', -, -, hfile, hvector⟩ := exec_after_response i s a
  obtain rfl : s.respond a = u := Host.Outcome.next.inj (h.symm.trans hu)
  exact ⟨u', hu', hfile, hvector⟩

theorem repeats_of_onlyAnswered {i : Instr} {s t : State} {a : Response} (h : exec i s = .next t)
    (ht : OnlyAnswered s t a) : Repeats i t := by
  obtain ⟨⟨hresp, hin, hreset, hcfg⟩, hfile, hv, hsize⟩ := ht
  obtain rfl : t = s.respond a := State.ext_fields hcfg hfile hv hsize hreset hin hresp
  exact repeats_of_respond h

theorem repeats_of_raise {i : Instr} {s t : State} {e : Err} (h : exec i s = raise e s) (hexec : exec i s = .next t) :
    Repeats i t := by
  obtain rfl : s.respond ⟨.err e, 0⟩ = t := Host.Outcome.next.inj (h.symm.trans hexec)
  exact repeats_of_respond h

/-- A command that writes `F` of the state to one store repeats itself if `F` is the same after the write. -/
theorem repeats_write {i : Instr} {s t : State} {ks : List StoreIdx} {d : StoreIdx} {F : State → Store}
    (hi : ∀ u : State, u.cfg = s.cfg → exec i u = legalStores ks u (done 0 (u.setStore d (F u))))
    (hF : (∀ k ∈ ks, InFile s.cfg k) → F (s.wrote d (F s)) = F s) (hexec : exec i s = .next t) :
    Repeats i t := by
  have hs := hi s rfl
  rcases legalStores_cases ks s (done 0 (s.setStore d (F s))) with ⟨hin, heq⟩ | ⟨-, heq⟩ <;> rw [heq] at hs
  · obtain rfl : s.wrote d (F s) = t := Host.Outcome.next.inj (hs.symm.trans hexec)
    have hagain := (hi (s.wrote d (F s)) rfl).trans (legalStores_of_inFile (s := s.wrote d (F s)) hin _)
    rw [hF hin] at hagain
    exact ⟨_, hagain.trans (done_eq _ _), by simp [FileKept], rfl, rfl⟩
  · exact repeats_of_raise hs hexec

/-- A second application to its own result, on either side or both, gives an operator's result again. -/
def Absorbs (f : Bool → Bool → Bool) : Prop :=
  ∀ a b, f (f a b) b = f a b ∧ f a (f a b) = f a b ∧ f (f a b) (f a b) = f a b

theorem Absorbs.zipWith {f : Bool → Bool → Bool} (hf : Absorbs f) (X Y : Store) :
    List.zipWith f (List.zipWith f X Y) Y = List.zipWith f X Y ∧
      List.zipWith f X (List.zipWith f X Y) = List.zipWith f X Y ∧
      List.zipWith f (List.zipWith f X Y) (List.zipWith f X Y) = List.zipWith f X Y := by
  induction X generalizing Y with
  | nil => simp
  | cons a X ih =>
    cases Y with
    | nil => simp
    | cons b Y => simpa [hf a b] using ih Y

theorem absorbs_and : Absorbs and := by
  unfold Absorbs
  decide

theorem absorbs_or : Absorbs or := by
  unfold Absorbs
  decide

/-- A cell-wise operator repeats itself if it absorbs, or if neither source is the destination. -/
theorem repeats_combineStores {i : Instr} {f : Bool → Bool → Bool} {s t : State} {sd sa sb : StoreIdx} (hs : s.Inv)
    (hi : exec i = combineStores f sd sa sb) (hf : Absorbs f ∨ (sa ≠ sd ∧ sb ≠ sd)) (hexec : exec i s = .next t) :
    Repeats i t := by
  refine repeats_write (F := fun u => List.zipWith f (u.store sa) (u.store sb)) (fun u _ => congrFun hi u)
    (fun hin => ?_) hexec
  simp only [State.respond_store, s.store_setStore (hs.lt_length_stores (hin sd (by simp)))]
  rcases hf with hf | ⟨ha, hb⟩
  · obtain ⟨hleft, hright, hboth⟩ := hf.zipWith (s.store sa) (s.store sb)
    split <;> split
    · exact hboth
    · exact hleft
    · exact hright
    · rfl
  · rw [if_neg ha, if_neg hb]

theorem repeats_bset {s t : State} {sd : StoreIdx} {p : Word64} {v : Bool} (hs : s.Inv)
    (hexec : exec (.bset sd p v) s = .next t) : Repeats (.bset sd p v) t := by
  rcases Nat.lt_or_ge p.toNat s.cfg.bsN with hp | hp
  · refine repeats_write (ks := [sd]) (d := sd) (F := fun u => setCell (u.store sd) p.toNat v) (fun u hcfg => ?_)
      (fun hin => ?_) hexec
    · exact congrArg (legalStores [sd] u) (atPosition_of_lt (hcfg ▸ hp) _)
    · rw [State.respond_store, s.store_setStore_same (hs.lt_length_stores (hin sd (by simp)))]
      exact List.set_set ..
  · rcases legalStores_cases [sd] s (atPosition p s fun k => done 0 (s.setStore sd (setCell (s.store sd) k v))) with
      ⟨-, heq⟩ | ⟨-, heq⟩
    · exact repeats_of_raise (heq.trans (atPosition_of_le hp _)) hexec
    · exact repeats_of_raise heq hexec

/-- The sample is quantized to the same fields, and the chunk holds them already. -/
theorem repeats_vset {s t : State} {n : Word64} {w : Word32} (hs : s.Inv) (hexec : exec (.vset n w) s = .next t) :
    Repeats (.vset n w) t := by
  obtain ⟨-, -, -, hlen, hsize⟩ := hs
  rcases Nat.lt_or_ge n.toNat s.size with hn | hout
  · by_cases hw : classOf w = .nan
    · exact repeats_of_raise (exec_vset_nan hn hw) hexec
    · obtain ⟨q, -, hz⟩ := exists_quantize s.cfg hw
      obtain rfl := Host.Outcome.next.inj ((exec_vset hn hz).symm.trans hexec)
      refine ⟨_, exec_vset (s := (s.setVector (writeChunk s.cfg s.v n.toNat _)).respond ⟨.ok, 0⟩) hn hz, rfl, ?_, rfl⟩
      exact writeChunk_writeChunk _ (chunk_le_length hlen (hn.trans_le hsize))
  · exact repeats_of_raise (exec_vset_outside hout w) hexec

theorem repeats_bnot {s t : State} {sd sa : StoreIdx} (hne : sa ≠ sd) (hexec : exec (.bnot sd sa) s = .next t) :
    Repeats (.bnot sd sa) t := by
  refine repeats_write (ks := [sd, sa]) (F := fun u => (u.store sa).map not) (fun u _ => rfl) (fun _ => ?_) hexec
  rw [State.respond_store, s.store_setStore_ne hne]

/-- Settles O19: a read writes nothing; the other commands write what they do not read, or what the first write holds
already. -/
theorem writesIdempotent : Obligations.WritesIdempotent := by
  intro i s t hs hi hexec
  cases hread : isRead i.opcode with
  | true =>
    obtain ⟨u, a, hexec', hanswered⟩ := readsChangeNothing i s hread
    obtain rfl : t = u := Host.Outcome.next.inj (hexec.symm.trans hexec')
    exact repeats_of_onlyAnswered hexec hanswered
  | false =>
    cases i with
    | bzero sd => exact repeats_write (F := fun v => zeroStore v.cfg.bsN) (fun _ _ => rfl) (fun _ => rfl) hexec
    | bldu sd u => exact repeats_write (F := fun v => storeOfWord v.cfg.bsN u) (fun _ _ => rfl) (fun _ => rfl) hexec
    | bset sd p v => exact repeats_bset hs hexec
    | band sd sa sb | banda sd sb => exact repeats_combineStores hs rfl (.inl absorbs_and) hexec
    | bor sd sa sb | bora sd sb => exact repeats_combineStores hs rfl (.inl absorbs_or) hexec
    | bxor sd sa sb =>
      obtain ⟨ha, hb⟩ := not_or.mp hi
      exact repeats_combineStores hs rfl (.inr ⟨Ne.symm ha, Ne.symm hb⟩) hexec
    | bnot sd sa => exact repeats_bnot (Ne.symm hi) hexec
    | vset n w => exact repeats_vset hs hexec
    | bxora | vappend => exact absurd trivial hi
    | _ => contradiction

end Sys2Proof.Machine

/-! ### A one-cell write as the mask-merge of the reference software (`spec/20_memory.md`, rule R46) -/

namespace Sys2Proof.Machine

/-- The mask-merge writes the bit at the offset and keeps the others. -/
theorem getLsbD_maskMerge (b : Byte) (v : Bool) {o k : Nat} (hk : k < 8) :
    (maskMerge b v o).getLsbD k = if k = o then v else b.getLsbD k := by
  have hsign : (-(BitVec.ofBool v).zeroExtend 8).getLsbD k = v := by
    cases v with
    | false => simp
    | true =>
      have hones : -(BitVec.ofBool true).zeroExtend 8 = BitVec.allOnes 8 := rfl
      rw [hones, BitVec.getLsbD_allOnes, decide_eq_true hk]
  have hmask : (1#8 <<< o).getLsbD k = decide (k = o) := by
    rw [BitVec.getLsbD_shiftLeft, BitVec.getLsbD_one, Bool.eq_iff_iff]
    simp [hk]
    omega
  rw [maskMerge, BitVec.getLsbD_xor, BitVec.getLsbD_and, BitVec.getLsbD_xor, hsign, hmask]
  by_cases h : k = o
  · simp [h, Bool.xor_left_comm]
  · simp [h]

/-- Settles O40, bit by bit: offset `k` of byte `b` is cell `8b + k`. -/
theorem bsetIsMaskMerge : Obligations.BsetIsMaskMerge := by
  intro X p v hp
  refine ⟨BitVec.eq_of_getLsbD_eq fun k hk => ?_, fun b hb => BitVec.eq_of_getLsbD_eq fun k hk => ?_⟩
  · rw [getLsbD_maskMerge _ _ hk, getLsbD_byteOf _ _ hk, getLsbD_byteOf _ _ hk]
    split
    next h =>
      have hpos : 8 * (p / 8) + k = p := by omega
      rw [hpos, cell_setCell_same hp]
    next h => exact cell_setCell_ne X (by omega) v
  · rw [getLsbD_byteOf _ _ hk, getLsbD_byteOf _ _ hk]
    exact cell_setCell_ne X (by omega) v

end Sys2Proof.Machine

/-! ### The quantizer on exact rationals and its sign (`spec/43_fixed_point_codec.md`, rules R122 to R125, R134, R135) -/

namespace Sys2Proof.Machine

/-- Settles O43, from the fields being the two digits of an integer that fits. -/
theorem quantizedFieldsFit : Obligations.QuantizedFieldsFit := by
  intro c w
  refine ⟨⟨fun hnone => ?_, quantize_of_nan c⟩, fun z hz => ?_⟩
  · by_contra hw
    obtain ⟨q, -, hq⟩ := exists_quantize c hw
    rw [hnone] at hq
    contradiction
  · obtain ⟨q, hle, hq⟩ := exists_quantize c (ne_nan_of_quantize hz)
    obtain rfl := Option.some.inj (hq.symm.trans hz)
    exact ⟨rfl, div_lt_of_le_maxQ hle, Nat.mod_lt q (Nat.two_pow_pos _)⟩

/-! #### The exact form (R122, R123) -/

/-- The integral part, then the scaled remainder, are the two digits of the one scaled floor. -/
theorem floor_digits {x : ℚ} (hx : 0 ≤ x) (D : Nat) :
    ⌊x⌋.toNat = ⌊x * 2 ^ D⌋₊ / 2 ^ D ∧ ⌊(x - ⌊x⌋) * 2 ^ D⌋.toNat = ⌊x * 2 ^ D⌋₊ % 2 ^ D := by
  have hint : ⌊x⌋₊ = ⌊x * 2 ^ D⌋₊ / 2 ^ D := by
    rw [← Nat.floor_div_natCast]
    push_cast
    rw [mul_div_cancel_right₀ _ (by positivity)]
  have hfloor : ⌊x⌋ = ((⌊x * 2 ^ D⌋₊ / 2 ^ D : Nat) : Int) := by
    rw [← hint, Int.natCast_floor_eq_floor hx]
  have hscaled : (x - ⌊x⌋) * 2 ^ D = x * 2 ^ D - ((⌊x * 2 ^ D⌋₊ / 2 ^ D * 2 ^ D : Nat) : Int) := by
    rw [hfloor]
    push_cast
    ring
  refine ⟨by rw [hfloor, Int.toNat_natCast], ?_⟩
  rw [hscaled, Int.floor_sub_intCast, ← Int.natCast_floor_eq_floor (by positivity)]
  have := Nat.div_add_mod' ⌊x * 2 ^ D⌋₊ (2 ^ D)
  omega

/-- What the exact form makes of a clamped magnitude is what the machine makes of its scaled floor. -/
theorem quantize_eq_of_clamped {c : Params} {w : Word32} {x : ℚ} (hx : 0 ≤ x)
    (hq : quantizedInteger c w = some ⌊x * 2 ^ c.decimalBits⌋₊) :
    quantize c w = some ⟨negOf w, ⌊x⌋.toNat, ⌊(x - ⌊x⌋) * 2 ^ c.decimalBits⌋.toNat⟩ := by
  obtain ⟨hi, hd⟩ := floor_digits hx c.decimalBits
  rw [quantize_of_quantizedInteger hq, hi, hd]

theorem floor_scaled_maxMagnitude (c : Params) : ⌊c.maxMagnitude * 2 ^ c.decimalBits⌋₊ = c.maxQ := by
  rw [c.maxMagnitude_eq, div_mul_cancel₀ _ (by positivity), Nat.floor_natCast]

theorem quantizedInteger_eq_floor_clamped (c : Params) {w : Word32} {m : ℚ} (h : magnitudeOf w = some (.finite m)) :
    quantizedInteger c w = some ⌊min m c.maxMagnitude * 2 ^ c.decimalBits⌋₊ := by
  rcases le_total m c.maxMagnitude with hle | hge
  · rw [quantizedInteger_of_le h hle, min_eq_left hle]
  · rw [quantizedInteger_of_ge h hge, min_eq_right hge, floor_scaled_maxMagnitude]

theorem classOf_of_magnitudeOf_none {w : Word32} (h : magnitudeOf w = none) : classOf w = .nan := by
  unfold magnitudeOf at h
  cases hw : classOf w <;> simp [hw] at h ⊢

theorem classOf_of_magnitudeOf_infinite {w : Word32} (h : magnitudeOf w = some .infinite) : classOf w = .inf := by
  unfold magnitudeOf at h
  cases hw : classOf w <;> simp [hw] at h ⊢

/-- Settles O42: a finite magnitude is clamped and an infinity is `MAX_MAGNITUDE`, and the integer is the floor of that. -/
theorem quantizerIsExact : Obligations.QuantizerIsExact := by
  intro c w
  unfold quantizeExact
  cases hm : magnitudeOf w with
  | none => exact quantize_of_nan c (classOf_of_magnitudeOf_none hm)
  | some m =>
    cases m with
    | finite m =>
      exact quantize_eq_of_clamped (le_min (magnitudeOf_nonneg hm) c.maxMagnitude_nonneg)
        (quantizedInteger_eq_floor_clamped c hm)
    | infinite =>
      refine quantize_eq_of_clamped c.maxMagnitude_nonneg ?_
      rw [quantizedInteger_of_inf c (classOf_of_magnitudeOf_infinite hm), floor_scaled_maxMagnitude]

/-! #### Flipping the sign bit (R134, R135) -/

theorem signBitOf_flip (w : Word32) : signBitOf (w ^^^ 0x80000000) = !signBitOf w := by
  rw [signBitOf, BitVec.getLsbD_xor, signBitOf]
  exact Bool.xor_true _

theorem exponentOf_flip (w : Word32) : exponentOf (w ^^^ 0x80000000) = exponentOf w := by
  have hmask : (0x80000000 : Word32).extractLsb' 23 8 = 0#8 := rfl
  rw [exponentOf, BitVec.extractLsb'_xor, hmask, BitVec.xor_zero, exponentOf]

theorem fractionOf_flip (w : Word32) : fractionOf (w ^^^ 0x80000000) = fractionOf w := by
  have hmask : (0x80000000 : Word32).extractLsb' 0 23 = 0#23 := rfl
  rw [fractionOf, BitVec.extractLsb'_xor, hmask, BitVec.xor_zero, fractionOf]

theorem classOf_flip (w : Word32) : classOf (w ^^^ 0x80000000) = classOf w := by
  simp only [classOf, exponentOf_flip, fractionOf_flip]

/-- The sign bit is no part of the magnitude. -/
theorem quantizedInteger_flip (c : Params) (w : Word32) :
    quantizedInteger c (w ^^^ 0x80000000) = quantizedInteger c w := by
  simp only [quantizedInteger, classOf_flip, scaledFloor, significandOf, scaleOf, exponentOf_flip, fractionOf_flip]

/-- A word that is neither a NaN nor a zero is negative exactly if its sign bit is set, so its flip is negative if not. -/
theorem negOf_flip {w : Word32} (hw : classOf w = .finite ∨ classOf w = .inf) :
    negOf (w ^^^ 0x80000000) = !negOf w := by
  rw [negOf, negOf, classOf_flip, signBitOf_flip]
  rcases hw with h | h <;> simp [h]

/-- The sign of a built word stands in bit 31 and nowhere else (R129). -/
theorem f32_not (neg : Bool) (q D : Nat) : f32 (!neg) q D = f32 neg q D ^^^ 0x80000000 := by
  refine word_ext ?_ ?_ ?_
  · rw [signBitOf_flip, signBitOf_f32, signBitOf_f32]
  · rw [exponentOf_flip]
    by_cases hq : q = 0
    · rw [hq, f32_zero, f32_zero, exponentOf_append, exponentOf_append]
    · rw [f32_of_pos _ hq, f32_of_pos _ hq, exponentOf_append, exponentOf_append]
  · rw [fractionOf_flip]
    by_cases hq : q = 0
    · rw [hq, f32_zero, f32_zero, fractionOf_append, fractionOf_append]
    · rw [f32_of_pos _ hq, f32_of_pos _ hq, fractionOf_append, fractionOf_append]

/-- Settles O50, from the flipped word having the other sign and the same quantized integer. -/
theorem signIsIndependent : Obligations.SignIsIndependent := by
  intro c V n w _ hV hn hw
  have hnan : classOf w ≠ .nan := by
    rcases hw with h | h <;> rw [h] <;> nofun
  obtain ⟨q, hle, hq⟩ := exists_quantizedInteger c hnan
  have hq' : quantizedInteger c (w ^^^ 0x80000000) = some q := (quantizedInteger_flip c w).trans hq
  have hW := encodeChunk_of_quantizedInteger V n hq
  have hW' := encodeChunk_of_quantizedInteger V n hq'
  refine ⟨_, _, _, quantize_of_quantizedInteger hq, ?_, hW, hW', ?_⟩
  · rw [quantize_of_quantizedInteger hq', negOf_flip hw]
  · rw [decodeChunk_encodeChunk hV hn hle hq' hW', decodeChunk_encodeChunk hV hn hle hq hW, negOf_flip hw]
    cases c.signBit with
    | false => simp
    | true =>
      rw [Bool.true_and, Bool.true_and, f32_not]
      rfl

end Sys2Proof.Machine

/-! ### The reset state, refusals and the idle block (`spec/10_state.md`, R34; `spec/70_reset_and_hazards.md`, R172) -/

namespace Sys2Proof.Machine

/-- Settles O11: the reset state is what any state of the block is after a reset. -/
theorem resetMeetsInvariant : Obligations.ResetMeetsInvariant := by
  have hinv (c : Params) (hc : c.Legal) : (State.resetFor c).Inv := State.afterReset_inv (s := State.resetFor c) hc []
  refine ⟨hinv Params.ref (by decide), fun c hc => ⟨hinv c hc, ⟨hc, rfl⟩, rfl, fun p _ => cell_zeroStore c.nv p, ?_⟩⟩
  exact fun k _ p _ => State.cell_store_afterReset (State.resetFor c) [] k p

theorem step_beforeFirstReset {s : State} {r : Request} {rest : List Input} (hc : s.cfg.Legal)
    (hreset : s.wasReset = false) (hin : s.inputs = .command r :: rest) : step s = .refused .beforeFirstReset := by
  rw [step, if_pos hc, hin]
  exact if_neg (by simp [hreset])

theorem step_illegalConfiguration {s : State} (hc : ¬ s.cfg.Legal) : step s = .refused .illegalConfiguration := by
  rw [step, if_neg hc]

theorem step_idle {s : State} (hc : s.cfg.Legal) (hin : s.inputs = []) : step s = .next s := by
  rw [step, if_pos hc, hin]

/-- Settles O26, from the checks a step makes before it looks at a request. -/
theorem refusalsAndIdle : Obligations.RefusalsAndIdle :=
  ⟨fun _ _ _ => step_beforeFirstReset, fun _ => step_illegalConfiguration, fun _ => step_idle⟩

end Sys2Proof.Machine

/-! ### The ports (`spec/30_encoding.md`, rule R60; `spec/70_reset_and_hazards.md`, rules R170, R171, R178) -/

namespace Sys2Proof.Machine

/-! #### One edge -/

theorem feed_command {s : State} (hs : s.Ready) (r : Request) : feed (.command r) s = runRequest r s :=
  step_command (s := { s with inputs := .command r :: s.inputs }) hs rfl

theorem feed_reset {s : State} (hc : s.cfg.Legal) : feed .reset s = .next (s.afterReset s.inputs) :=
  step_reset (s := { s with inputs := .reset :: s.inputs }) (r := ⟨0, 0, 0⟩) hc (.inl rfl)

/-- A request is answered with exactly one response, whether its word decodes or not (R60, R67). -/
theorem runRequest_answered (r : Request) (s : State) : ∃ t a, runRequest r s = .next t ∧ Answered s t a := by
  unfold runRequest
  cases decode r with
  | none => exact ⟨_, _, raise_eq .illegalCommand s, rfl, rfl, rfl, rfl⟩
  | some i =>
    obtain ⟨t, a, hexec, hanswered, -⟩ := everyCommandAnswersOnce i s
    exact ⟨t, a, hexec, hanswered⟩

/-- A transferred request is executed, and its response is held back until the host takes it (R48, R60). -/
theorem Port.start_of_ready {p : Port} (hp : p.core.Ready) (r : Request) :
    ∃ a t, p.start r = .next ⟨.inFlight a, t⟩ ∧ t.responses = p.core.responses ∧
      runRequest r p.core = .next (t.respond a) := by
  obtain ⟨t, a, hrun, hresp, -⟩ := runRequest_answered r p.core
  have hlast : lastResponse t = some a := by rw [lastResponse, hresp, List.getLast?_concat]
  refine ⟨a, { t with responses := p.core.responses }, ?_, rfl, ?_⟩
  · simp only [Port.start, feed_command hp, hrun, hlast]
  · rw [hrun, State.respond, ← hresp]

section edges
variable {p : Port} {e : Pins}

theorem Port.edge_accept (hphase : p.phase = .idle) (hrst : e.rst = false) (hvalid : e.reqValid = true)
    (haccept : e.accept = true) : p.edge e = p.start e.request := by
  simp [Port.edge, hphase, hrst, hvalid, haccept]

theorem Port.edge_idle (hphase : p.phase = .idle) (hrst : e.rst = false)
    (hno : ¬ (e.accept = true ∧ e.reqValid = true)) : p.edge e = .next p := by
  have hno : (e.reqValid && e.accept) = false := by
    rw [Bool.and_comm]
    exact Bool.eq_false_iff.mpr fun h => hno (Bool.and_eq_true_iff.mp h)
  simp [Port.edge, hphase, hrst, hno]

theorem Port.edge_respond {a : Response} (hphase : p.phase = .inFlight a) (hrst : e.rst = false)
    (hpresent : e.present = true) (hready : e.respReady = true) : p.edge e = .next ⟨.idle, p.core.respond a⟩ := by
  simp [Port.edge, hphase, hrst, hpresent, hready]

theorem Port.edge_wait {a : Response} (hphase : p.phase = .inFlight a) (hrst : e.rst = false)
    (hno : ¬ (e.present = true ∧ e.respReady = true)) : p.edge e = .next p := by
  have hno : (e.present && e.respReady) = false :=
    Bool.eq_false_iff.mpr fun h => hno (Bool.and_eq_true_iff.mp h)
  simp [Port.edge, hphase, hrst, hno]

theorem Port.edge_release (hphase : p.phase = .held) (hrst : e.rst = false) :
    p.edge e = .next { p with phase := .idle } := by
  simp [Port.edge, hphase, hrst]

/-- A reset edge does not look at the phase (R170, R171). -/
theorem Port.edge_reset (hc : p.core.cfg.Legal) (hrst : e.rst = true) :
    p.edge e = .next ⟨.held, p.core.afterReset p.core.inputs⟩ := by
  simp [Port.edge, hrst, feed_reset hc]

end edges

/-! #### Sequences of edges -/

theorem Port.edges_cons {p p' : Port} {e : Pins} (h : p.edge e = .next p') (es : List Pins) :
    p.edges (e :: es) = p'.edges es := by
  rw [Port.edges, h]

/-- However long the response is not transferred, nothing changes (R178). -/
theorem Port.edges_wait {p : Port} {a : Response} (hphase : p.phase = .inFlight a) (xs es : List Pins) :
    p.edges (xs.map waitEdge ++ es) = p.edges es := by
  induction xs with
  | nil => rfl
  | cons x xs ih =>
    have hno : ¬ ((waitEdge x).present = true ∧ (waitEdge x).respReady = true) := by
      simp only [waitEdge]
      cases x.present <;> simp
    rw [List.map_cons, List.cons_append, Port.edges_cons (Port.edge_wait hphase rfl hno), ih]

/-- Settles O58: the request is executed at the first edge, the waiting edges change nothing, and the last edge adds the
response. -/
theorem transactionIsOneStep : Obligations.TransactionIsOneStep := by
  intro s t r e xs e' hs hstep
  obtain ⟨a, u, hstart, -, hrun⟩ := Port.start_of_ready (p := ⟨.idle, s⟩) hs r
  obtain rfl : u.respond a = t := Host.Outcome.next.inj (hrun.symm.trans ((feed_command hs r).symm.trans hstep))
  have haccept := Port.edge_accept (p := ⟨.idle, s⟩)
    (e := { e with rst := false, reqValid := true, request := r, accept := true }) rfl rfl rfl rfl
  rw [transaction, List.append_assoc, List.singleton_append, Port.edges_cons (haccept.trans hstart),
    Port.edges_wait rfl, Port.edges_cons (Port.edge_respond rfl rfl rfl rfl), Port.edges]

/-- Settles O59, from the reset edge and the first edge after it. -/
theorem resetEdgeAbandonsCommand : Obligations.ResetEdgeAbandonsCommand := by
  intro p e e' hc hrst hrst'
  rw [Port.edges_cons (Port.edge_reset hc hrst), Port.edges_cons (Port.edge_release rfl hrst'), Port.edges]
  rfl

/-! #### The outputs (R60, R150, R170) -/

theorem Port.reqReady_iff (p : Port) (e : Pins) :
    (p.outputs e).reqReady = true ↔ p.phase = .idle ∧ e.rst = false ∧ e.accept = true := by
  cases hphase : p.phase <;> simp [Port.outputs, hphase]

theorem Port.response_iff (p : Port) (e : Pins) (a : BitVec 4) (x : Word64) :
    (p.outputs e).response = some (a, x) ↔
      e.rst = false ∧ e.present = true ∧ ∃ y : Response, p.phase = .inFlight y ∧ a = y.status.code ∧ x = y.res := by
  cases hphase : p.phase with
  | idle | held => simp [Port.outputs, hphase]
  | inFlight y => simp [Port.outputs, hphase, and_assoc, eq_comm (a := a), eq_comm (a := x)]

theorem Port.isSome_response_iff (p : Port) (e : Pins) :
    (p.outputs e).response.isSome = true ↔ e.rst = false ∧ e.present = true ∧ ∃ y, p.phase = .inFlight y := by
  cases hphase : p.phase with
  | idle | held => simp [Port.outputs, hphase]
  | inFlight y => simp [Port.outputs, hphase]

/-- An edge of a block out of reset that transfers neither a request nor a response changes nothing. -/
theorem Port.edge_no_transfer {p : Port} {e : Pins} (hrst : e.rst = false) (hheld : p.phase ≠ .held)
    (hreq : ¬ ((p.outputs e).reqReady = true ∧ e.reqValid = true))
    (hresp : ¬ ((p.outputs e).response.isSome = true ∧ e.respReady = true)) : p.edge e = .next p := by
  rw [Port.reqReady_iff] at hreq
  rw [Port.isSome_response_iff] at hresp
  cases hphase : p.phase with
  | held => exact absurd hphase hheld
  | idle => exact Port.edge_idle hphase hrst fun ⟨haccept, hvalid⟩ => hreq ⟨⟨hphase, hrst, haccept⟩, hvalid⟩
  | inFlight y =>
    exact Port.edge_wait hphase hrst fun ⟨hpresent, hready⟩ => hresp ⟨⟨hrst, hpresent, y, hphase⟩, hready⟩

/-- Settles O60, from the two outputs and the three kinds of edge with `rst = 0`. -/
theorem oneCommandInFlight : Obligations.OneCommandInFlight := by
  refine ⟨fun p e => ⟨p.reqReady_iff e, p.response_iff e, ?_, ?_, Port.edge_no_transfer⟩,
    rfl, rfl, rfl, rfl, rfl, rfl, rfl⟩
  · intro hrst hp hready hvalid
    obtain ⟨hphase, -, haccept⟩ := (p.reqReady_iff e).mp hready
    rw [Port.edge_accept hphase hrst hvalid haccept]
    exact Port.start_of_ready hp e.request
  · intro y hphase hdriven hready
    obtain ⟨hrst, hpresent, -⟩ := (p.isSome_response_iff e).mp hdriven
    exact Port.edge_respond hphase hrst hpresent hready

end Sys2Proof.Machine

/-! ### The assembler's decimal literals (`spec/30_encoding.md`, rule R69) -/

namespace Sys2Proof.Machine

/-! #### Rounding to an integer -/

/-- No integer is nearer than the rounded one, and where another is as near the rounded one is even. -/
theorem roundHalfEven_nearest (y : ℚ) (j : Int) :
    |(roundHalfEven y : ℚ) - y| ≤ |(j : ℚ) - y| ∧
      (|(roundHalfEven y : ℚ) - y| = |(j : ℚ) - y| → j = roundHalfEven y ∨ roundHalfEven y % 2 = 0) := by
  obtain ⟨hhalf, heven⟩ := roundHalfEven_spec y
  rcases eq_or_ne j (roundHalfEven y) with rfl | hne
  · exact ⟨le_rfl, fun _ => .inl rfl⟩
  · have hgap : (1 : ℚ) ≤ |(j : ℚ) - roundHalfEven y| := by
      have : (1 : Int) ≤ |j - roundHalfEven y| := Int.one_le_abs (sub_ne_zero.mpr hne)
      exact_mod_cast this
    have htriangle := abs_sub_le (j : ℚ) y (roundHalfEven y)
    rw [abs_sub_comm y] at htriangle
    exact ⟨by linarith, fun htie => .inr (heven (by linarith))⟩

theorem le_roundHalfEven {a : Int} {y : ℚ} (h : (a : ℚ) ≤ y) : a ≤ roundHalfEven y := by
  have hhalf := (abs_le.mp (roundHalfEven_spec y).left).left
  have : (a : ℚ) < roundHalfEven y + 1 := by linarith
  have : a < roundHalfEven y + 1 := by exact_mod_cast this
  omega

theorem roundHalfEven_le {b : Int} {y : ℚ} (h : y ≤ b) : roundHalfEven y ≤ b := by
  have hhalf := (abs_le.mp (roundHalfEven_spec y).left).right
  have : (roundHalfEven y : ℚ) < b + 1 := by linarith
  have : roundHalfEven y < b + 1 := by exact_mod_cast this
  omega

/-! #### The values of binary32 -/

theorem neg149_le_scaleOf (w : Word32) : -149 ≤ scaleOf w := by
  unfold scaleOf
  split
  · exact le_rfl
  next hne =>
    have : (exponentOf w).toNat ≠ 0 := fun h0 => hne (BitVec.eq_of_toNat_eq h0)
    omega

/-- A value is an integer of at most 24 bits at a scale of at least that of the subnormal words. -/
theorem exists_scaled_of_valueOf {w : Word32} {r : ℚ} (h : valueOf w = some r) :
    ∃ (j ex : Int), r = j * 2 ^ ex ∧ |j| < 2 ^ 24 ∧ -149 ≤ ex := by
  obtain ⟨m, hm⟩ : ∃ m, magnitudeOf w = some (.finite m) := by
    unfold valueOf at h
    split at h
    next m hm => exact ⟨m, hm⟩
    next => contradiction
  rw [valueOf_of_magnitudeOf hm, Option.some.injEq] at h
  obtain ⟨-, rfl⟩ := magnitudeOf_eq_finite_iff.mp hm
  have hsig : ((significandOf w : Nat) : Int) < 2 ^ 24 := by exact_mod_cast significandOf_lt w
  refine ⟨if signBitOf w then -significandOf w else significandOf w, scaleOf w, ?_, ?_, neg149_le_scaleOf w⟩
  · rw [← h]
    split <;> simp
  · split
    · rwa [abs_neg, abs_of_nonneg (Int.natCast_nonneg _)]
    · rwa [abs_of_nonneg (Int.natCast_nonneg _)]

/-- Units of the last place rounded from `X` are nearest to `X` among all values: one at a larger scale is a number of
these units too, and one at a smaller scale is below the whole binade of `X`. -/
theorem scaled_nearest {X : ℚ} {u j ex : Int} (hu : u = -149 ∨ 2 ^ 23 * 2 ^ u ≤ X) (hj : |j| < 2 ^ 24)
    (hex : -149 ≤ ex) :
    |(roundHalfEven (X / 2 ^ u) : ℚ) * 2 ^ u - X| ≤ |j * 2 ^ ex - X| ∧
      (|(roundHalfEven (X / 2 ^ u) : ℚ) * 2 ^ u - X| = |j * 2 ^ ex - X| →
        (j : ℚ) * 2 ^ ex = roundHalfEven (X / 2 ^ u) * 2 ^ u ∨ roundHalfEven (X / 2 ^ u) % 2 = 0) := by
  have hpos : (0 : ℚ) < 2 ^ u := by positivity
  have hunits (i : ℚ) : |i * 2 ^ u - X| = |i - X / 2 ^ u| * 2 ^ u := by
    rw [← abs_of_pos hpos, ← abs_mul, abs_of_pos hpos, sub_mul, div_mul_cancel₀ _ hpos.ne']
  rcases le_or_gt u ex with hle | hlt
  · obtain ⟨k, rfl⟩ := Int.le.dest hle
    have hscaled : (j : ℚ) * 2 ^ (u + k) = ((j * 2 ^ k : Int) : ℚ) * 2 ^ u := by
      rw [zpow_add₀ two_ne_zero, zpow_natCast]
      push_cast
      ring
    obtain ⟨hnear, htie⟩ := roundHalfEven_nearest (X / 2 ^ u) (j * 2 ^ k)
    rw [hscaled, hunits, hunits]
    refine ⟨by gcongr, fun h => ?_⟩
    rcases htie (mul_right_cancel₀ hpos.ne' h) with heq | heven
    · exact .inl (by rw [heq])
    · exact .inr heven
  · have hbinade : (2 : ℚ) ^ 23 * 2 ^ u ≤ X := hu.resolve_left (by omega)
    have hbelow : (j : ℚ) * 2 ^ ex < 2 ^ 23 * 2 ^ u := by
      have hj : (j : ℚ) < 2 ^ 24 := by exact_mod_cast (le_abs_self j).trans_lt hj
      calc (j : ℚ) * 2 ^ ex < 2 ^ 24 * 2 ^ ex := by gcongr
        _ = 2 ^ 23 * 2 ^ (ex + 1) := by rw [zpow_add_one₀ two_ne_zero]; ring
        _ ≤ 2 ^ 23 * 2 ^ u := by gcongr <;> [norm_num; omega]
    have hnear : |(roundHalfEven (X / 2 ^ u) : ℚ) * 2 ^ u - X| ≤ X - 2 ^ 23 * 2 ^ u := by
      have h := (roundHalfEven_nearest (X / 2 ^ u) (2 ^ 23)).left
      calc _ = |(roundHalfEven (X / 2 ^ u) : ℚ) - X / 2 ^ u| * 2 ^ u := hunits _
        _ ≤ |((2 ^ 23 : Int) : ℚ) - X / 2 ^ u| * 2 ^ u := by gcongr
        _ = |((2 ^ 23 : Int) : ℚ) * 2 ^ u - X| := (hunits _).symm
        _ = X - 2 ^ 23 * 2 ^ u := by
          rw [Int.cast_pow, Int.cast_ofNat, abs_sub_comm, abs_of_nonneg (by linarith)]
    have hfar : X - 2 ^ 23 * 2 ^ u < |(j : ℚ) * 2 ^ ex - X| := by
      rw [abs_sub_comm, abs_of_nonneg (by linarith)]
      linarith
    exact ⟨by linarith, fun h => by linarith⟩


/-- A value rounded in units of the last place, with the sign of the literal, is nearest to the literal. -/
theorem nearestEven_of_scaled {w : Word32} {neg : Bool} {X : ℚ} {u : Int} (hsign : signBitOf w = neg)
    (hmag : magnitudeOf w = some (.finite (roundHalfEven (X / 2 ^ u) * 2 ^ u)))
    (hparity : roundHalfEven (X / 2 ^ u) % 2 = 0 → w.getLsbD 0 = false) (hu : u = -149 ∨ 2 ^ 23 * 2 ^ u ≤ X) :
    NearestEven w (if neg then -X else X) := by
  refine ⟨_, valueOf_of_magnitudeOf hmag, fun w' r' hr' => ?_⟩
  obtain ⟨j, ex, rfl, hj, hex⟩ := exists_scaled_of_valueOf hr'
  rw [hsign]
  cases neg with
  | false =>
    obtain ⟨hnear, htie⟩ := scaled_nearest hu hj hex
    exact ⟨hnear, fun h => (htie h).imp_right hparity⟩
  | true =>
    obtain ⟨hnear, htie⟩ := scaled_nearest (j := -j) hu (by rwa [abs_neg]) hex
    have hflip (a : ℚ) : |-a - -X| = |a - X| := by rw [← abs_neg]; congr 1; ring
    have hflip' : |(j : ℚ) * 2 ^ ex - -X| = |((-j : Int) : ℚ) * 2 ^ ex - X| := by
      rw [← hflip, Int.cast_neg, neg_mul, neg_neg]
    rw [if_pos rfl, if_pos rfl, hflip, hflip']
    refine ⟨hnear, fun h => (htie h).imp (fun heq => ?_) hparity⟩
    rw [← heq, Int.cast_neg, neg_mul, neg_neg]

/-! #### The word of an exponent and a rounded significand -/

section assembled
variable (neg : Bool) (B : BitVec 31)

theorem signBitOf_ofBool_append : signBitOf (BitVec.ofBool neg ++ B) = neg := by
  simp only [signBitOf, BitVec.getLsbD_append]
  simp

theorem toNat_exponentOf_ofBool_append : (exponentOf (BitVec.ofBool neg ++ B)).toNat = B.toNat / 2 ^ 23 := by
  have hbits : exponentOf (BitVec.ofBool neg ++ B) = B.extractLsb' 23 8 := by
    refine BitVec.eq_of_getLsbD_eq fun k hk => ?_
    simp only [exponentOf, BitVec.getLsbD_extractLsb', BitVec.getLsbD_append]
    rw [if_pos (by omega)]
  have := B.isLt
  rw [hbits, BitVec.extractLsb'_toNat, Nat.shiftRight_eq_div_pow, Nat.mod_eq_of_lt (by omega)]

theorem toNat_fractionOf_ofBool_append : (fractionOf (BitVec.ofBool neg ++ B)).toNat = B.toNat % 2 ^ 23 := by
  have hbits : fractionOf (BitVec.ofBool neg ++ B) = B.extractLsb' 0 23 := by
    refine BitVec.eq_of_getLsbD_eq fun k hk => ?_
    simp only [fractionOf, BitVec.getLsbD_extractLsb', BitVec.getLsbD_append]
    rw [if_pos (by omega)]
  rw [hbits, BitVec.extractLsb'_toNat, Nat.shiftRight_zero]

theorem getLsbD_zero_ofBool_append : (BitVec.ofBool neg ++ B).getLsbD 0 = B.getLsbD 0 := by
  rw [BitVec.getLsbD_append, if_pos (by omega)]

end assembled

theorem significandOf_eq_ite (w : Word32) : significandOf w =
    if (exponentOf w).toNat = 0 then (fractionOf w).toNat else 2 ^ 23 + (fractionOf w).toNat := by
  simp only [significandOf, ← BitVec.toNat_inj]
  rfl

theorem scaleOf_eq_ite (w : Word32) : scaleOf w =
    if (exponentOf w).toNat = 0 then -149 else ((exponentOf w).toNat : Int) - 150 := by
  simp only [scaleOf, ← BitVec.toNat_inj]
  rfl

/-- Adding a rounded significand to the exponent field: the implicit bit counts the exponent up by one, and a significand
rounded up to `2^24` by one more. -/
theorem magnitudeOf_exponent_add {k n : Nat} (neg : Bool) (hn : n ≤ 2 ^ 24) (hk : k = 0 ∨ 2 ^ 23 ≤ n)
    (hfinite : k * 2 ^ 23 + n < 0x7F800000) :
    magnitudeOf (BitVec.ofBool neg ++ BitVec.ofNat 31 (k * 2 ^ 23 + n)) =
      some (.finite (n * 2 ^ ((k : Int) - 149))) := by
  have hB : (BitVec.ofNat 31 (k * 2 ^ 23 + n)).toNat = k * 2 ^ 23 + n := by
    rw [BitVec.toNat_ofNat, Nat.mod_eq_of_lt (by omega)]
  have hE := toNat_exponentOf_ofBool_append neg (BitVec.ofNat 31 (k * 2 ^ 23 + n))
  have hF := toNat_fractionOf_ofBool_append neg (BitVec.ofNat 31 (k * 2 ^ 23 + n))
  rw [hB] at hE hF
  rw [magnitudeOf_eq_finite_iff, significandOf_eq_ite, scaleOf_eq_ite, Ne, ← BitVec.toNat_inj, hE, hF]
  refine ⟨fun h => ?_, ?_⟩
  · change _ = 255 at h
    omega
  rcases Nat.lt_or_ge n (2 ^ 23) with hsub | hnorm
  · obtain rfl : k = 0 := by omega
    rw [if_pos (by omega), if_pos (by omega), Nat.mod_eq_of_lt (by omega)]
    simp
  · rw [if_neg (by omega), if_neg (by omega)]
    rcases Nat.lt_or_ge n (2 ^ 24) with hlt | hge
    · have hsig : 2 ^ 23 + (k * 2 ^ 23 + n) % 2 ^ 23 = n := by omega
      have hscale : (((k * 2 ^ 23 + n) / 2 ^ 23 : Nat) : Int) - 150 = k - 149 := by omega
      rw [hsig, hscale]
    · obtain rfl : n = 2 ^ 24 := by omega
      have hsig : 2 ^ 23 + (k * 2 ^ 23 + 2 ^ 24) % 2 ^ 23 = 2 ^ 23 := by omega
      have hscale : (((k * 2 ^ 23 + 2 ^ 24) / 2 ^ 23 : Nat) : Int) - 150 = k - 149 + 1 := by omega
      rw [hsig, hscale, zpow_add_one₀ two_ne_zero]
      push_cast
      ring

theorem signBitOf_binary32OfDecimal (neg : Bool) (m k : Nat) : signBitOf (binary32OfDecimal neg m k) = neg := by
  unfold binary32OfDecimal
  split <;> exact signBitOf_ofBool_append neg _

theorem nearestEven_zero (neg : Bool) : NearestEven (BitVec.ofBool neg ++ 0#31) (if neg then -0 else 0) := by
  have hmag := magnitudeOf_exponent_add (k := 0) (n := 0) neg (by omega) (.inl rfl) (by omega)
  have hround : roundHalfEven (0 / 2 ^ (-149 : Int)) = 0 := by
    rw [zero_div]
    exact le_antisymm (roundHalfEven_le (by simp)) (le_roundHalfEven (by simp))
  refine nearestEven_of_scaled (u := -149) (signBitOf_ofBool_append neg _) ?_ (fun _ => ?_) (.inl rfl)
  · rw [hround]
    simpa using hmag
  · rw [getLsbD_zero_ofBool_append]
    rfl


/-- The exponent of the last place of the word of a literal, at least that of the subnormal words. -/
def lastPlace (m k : Nat) : Int := max (floorLog2 m (10 ^ k) - 23) (-149)

/-- The significand of the word of a literal, in units of the last place. -/
def roundedSignificand (m k : Nat) : Int := roundHalfEven ((m : ℚ) / 10 ^ k / 2 ^ lastPlace m k)

theorem binary32OfDecimal_of_ne_zero (neg : Bool) {m : Nat} (hm : m ≠ 0) (k : Nat) :
    binary32OfDecimal neg m k = BitVec.ofBool neg ++
      BitVec.ofNat 31 (min ((lastPlace m k + 149).toNat * 2 ^ 23 + (roundedSignificand m k).toNat) 0x7F800000) :=
  if_neg hm

/-- What the last place is for a literal up to the largest finite magnitude: a normal word's place, at which the literal
has 24 bits, or the subnormal words' place, at which it has at most 24. -/
theorem lastPlace_spec {m k : Nat} (hm : m ≠ 0) (hle : (m : ℚ) / 10 ^ k ≤ (2 ^ 24 - 1) * 2 ^ 104) :
    -149 ≤ lastPlace m k ∧ lastPlace m k ≤ 104 ∧ (m : ℚ) / 10 ^ k ≤ 2 ^ 24 * 2 ^ lastPlace m k ∧
      (lastPlace m k = -149 ∨ 2 ^ 23 * 2 ^ lastPlace m k ≤ (m : ℚ) / 10 ^ k) := by
  obtain ⟨hlow, hhigh⟩ := floorLog2_spec hm (d := 10 ^ k) (by positivity)
  push_cast at hlow hhigh
  have hlast : floorLog2 m (10 ^ k) - 23 ≤ lastPlace m k := le_max_left _ _
  have hlog : floorLog2 m (10 ^ k) < 128 := by
    rw [← zpow_lt_zpow_iff_right₀ (one_lt_two (α := ℚ))]
    calc (2 : ℚ) ^ floorLog2 m (10 ^ k) ≤ (2 ^ 24 - 1) * 2 ^ 104 := hlow.trans hle
      _ < 2 ^ (128 : Int) := by norm_num
  refine ⟨le_max_right _ _, max_le (by omega) (by norm_num), ?_, ?_⟩
  · calc (m : ℚ) / 10 ^ k ≤ 2 ^ (floorLog2 m (10 ^ k) + 1) := hhigh.le
      _ ≤ 2 ^ (24 + lastPlace m k) := zpow_le_zpow_right₀ one_le_two (by omega)
      _ = 2 ^ 24 * 2 ^ lastPlace m k := by rw [zpow_add₀ two_ne_zero]; rfl
  · rcases le_total (floorLog2 m (10 ^ k) - 23) (-149) with hsub | hnorm
    · exact .inl (max_eq_right hsub)
    · refine .inr ?_
      calc (2 : ℚ) ^ 23 * 2 ^ lastPlace m k = 2 ^ (23 + (floorLog2 m (10 ^ k) - 23)) := by
            rw [lastPlace, max_eq_left hnorm, zpow_add₀ two_ne_zero]
            rfl
        _ ≤ (m : ℚ) / 10 ^ k := by rwa [add_sub_cancel]

/-- The rounded significand has at most 24 bits or is `2^24`, has no less than 24 at a normal word's place, and does not
round up to `2^24` at the largest place. -/
theorem roundedSignificand_spec {m k : Nat} (hm : m ≠ 0) (hle : (m : ℚ) / 10 ^ k ≤ (2 ^ 24 - 1) * 2 ^ 104) :
    0 ≤ roundedSignificand m k ∧ roundedSignificand m k ≤ 2 ^ 24 ∧
      (lastPlace m k = -149 ∨ 2 ^ 23 ≤ roundedSignificand m k) ∧
      (lastPlace m k = 104 → roundedSignificand m k ≤ 2 ^ 24 - 1) := by
  obtain ⟨-, -, hhigh, hlow⟩ := lastPlace_spec hm hle
  have hpos : (0 : ℚ) < 2 ^ lastPlace m k := by positivity
  refine ⟨le_roundHalfEven ?_, roundHalfEven_le ?_, hlow.imp_right fun h => le_roundHalfEven ?_,
    fun h104 => roundHalfEven_le ?_⟩
  · rw [Int.cast_zero]
    positivity
  · rw [div_le_iff₀ hpos]
    exact_mod_cast hhigh
  · rw [le_div_iff₀ hpos]
    exact_mod_cast h
  · rw [div_le_iff₀ hpos, h104]
    exact_mod_cast hle

/-- A decimal literal up to the largest finite magnitude is converted to the nearest word, ties to even (R69). -/
theorem binary32OfDecimal_nearestEven (neg : Bool) {m k : Nat} (hle : (m : ℚ) / 10 ^ k ≤ (2 ^ 24 - 1) * 2 ^ 104) :
    NearestEven (binary32OfDecimal neg m k) (decimalValue neg m k) := by
  by_cases hm : m = 0
  · subst hm
    simpa [binary32OfDecimal, decimalValue] using nearestEven_zero neg
  obtain ⟨hbase, htop, -, hplace⟩ := lastPlace_spec hm hle
  obtain ⟨hnonneg, h24, hnormal, hlargest⟩ := roundedSignificand_spec hm hle
  obtain ⟨n, hn⟩ := Int.eq_ofNat_of_zero_le hnonneg
  obtain ⟨l, hl⟩ := Int.eq_ofNat_of_zero_le (show 0 ≤ lastPlace m k + 149 by omega)
  have hfinite : l * 2 ^ 23 + n < 0x7F800000 := by omega
  have hword : binary32OfDecimal neg m k = BitVec.ofBool neg ++ BitVec.ofNat 31 (l * 2 ^ 23 + n) := by
    rw [binary32OfDecimal_of_ne_zero neg hm, hl, hn, Int.toNat_natCast, Int.toNat_natCast, min_eq_left hfinite.le]
  have hmag := magnitudeOf_exponent_add (k := l) (n := n) neg (by omega) (by omega) hfinite
  have hscale : (l : Int) - 149 = lastPlace m k := by omega
  have hsig : (n : ℚ) = (roundedSignificand m k : ℚ) := by rw [hn, Int.cast_natCast]
  rw [hscale, hsig, ← hword] at hmag
  refine nearestEven_of_scaled (signBitOf_binary32OfDecimal neg m k) hmag (fun heven => ?_) hplace
  have hmod : n % 2 = 0 := by
    change roundedSignificand m k % 2 = 0 at heven
    omega
  rw [hword, getLsbD_zero_ofBool_append, BitVec.getLsbD_ofNat, Nat.testBit_zero]
  simp
  omega

end Sys2Proof.Machine

/-! ### The assembler's lines (`spec/30_encoding.md`, rule R69) -/

namespace Sys2Proof.Machine

/-! #### The request of a line -/

/-- Shifting the fields one by one is shifting each into its place. -/
theorem shifted_fields (op d a b v : Nat) : op ||| d <<< 8 ||| a <<< 12 ||| b <<< 16 ||| v <<< 20 =
    ((((0 <<< 1 ||| v) <<< 4 ||| b) <<< 4 ||| a) <<< 4 ||| d) <<< 8 ||| op := by
  simp only [Nat.zero_shiftLeft, Nat.zero_or, Nat.shiftLeft_or_distrib, ← Nat.shiftLeft_add]
  simp only [Nat.reduceAdd, Nat.or_comm, Nat.or_assoc]

/-- The formula of R69 on numbers is the word put together from the fields. -/
theorem lineWord_eq_commandWord (o : Opcode) {d a b v : Nat} (hd : d < 16) (ha : a < 16) (hb : b < 16) (hv : v < 2) :
    lineWord o.byte.toNat d a b v =
      commandWord o (BitVec.ofNat 4 d) (BitVec.ofNat 4 a) (BitVec.ofNat 4 b) (decide (v = 1)) := by
  have hbit : (BitVec.ofBool (decide (v = 1))).toNat = v := by
    rcases Nat.lt_or_ge v 1 with h | h
    · obtain rfl : v = 0 := by omega
      rfl
    · obtain rfl : v = 1 := by omega
      rfl
  have hfield {k : Nat} (hk : k < 16) : (BitVec.ofNat 4 k).toNat = k := by
    rw [BitVec.toNat_ofNat, Nat.mod_eq_of_lt hk]
  have hword : o.byte.toNat ||| d <<< 8 ||| a <<< 12 ||| b <<< 16 ||| v <<< 20 =
      (commandWord o (BitVec.ofNat 4 d) (BitVec.ofNat 4 a) (BitVec.ofNat 4 b) (decide (v = 1))).toNat := by
    rw [shifted_fields, commandWord, BitVec.toNat_append, BitVec.toNat_append, BitVec.toNat_append, BitVec.toNat_append,
      BitVec.toNat_append, hbit, hfield hd, hfield ha, hfield hb]
    rfl
  rw [lineWord, hword, BitVec.ofNat_toNat, BitVec.setWidth_eq]

theorem storeArg_of_lt {k : Nat} (h : k < 16) : storeArg k = some (BitVec.ofNat 4 k) := if_pos h

theorem intArg_of_lt {n : Nat} (h : n < 2 ^ 64) : intArg n = some (BitVec.ofNat 64 n) := if_pos h

theorem bitArg_of_lt {v : Nat} (h : v < 2) : bitArg v = some (decide (v = 1)) := by
  rcases Nat.lt_or_ge v 1 with h0 | h1
  · obtain rfl : v = 0 := by omega
    rfl
  · obtain rfl : v = 1 := by omega
    rfl

/-- A line whose operands are parsed is the formula's word and the carriers of the command. -/
theorem assemble_eq_lineWord {o : Opcode} {args : List Arg} {i : Instr} {d a b v : Nat} {A : Word64} {B : Word32}
    (hparse : parseLine o args = some i) (hd : d < 16) (ha : a < 16) (hb : b < 16) (hv : v < 2)
    (hencode : encode i =
      ⟨commandWord o (BitVec.ofNat 4 d) (BitVec.ofNat 4 a) (BitVec.ofNat 4 b) (decide (v = 1)), A, B⟩) :
    assemble o args = some ⟨lineWord o.byte.toNat d a b v, A, B⟩ := by
  rw [assemble, hparse, Option.map_some, hencode, lineWord_eq_commandWord o hd ha hb hv]

section forms
variable {d a b n v : Nat}

theorem oneStore_of_lt (f : StoreIdx → Instr) (hd : d < 16) :
    oneStore f [.store d] = some (f (BitVec.ofNat 4 d)) := by
  rw [oneStore, storeArg_of_lt hd, Option.map_some]

theorem twoStores_of_lt (f : StoreIdx → StoreIdx → Instr) (hd : d < 16) (ha : a < 16) :
    twoStores f [.store d, .store a] = some (f (BitVec.ofNat 4 d) (BitVec.ofNat 4 a)) := by
  rw [twoStores, storeArg_of_lt hd, storeArg_of_lt ha, Option.bind_some, Option.map_some]

theorem threeStores_of_lt (f : StoreIdx → StoreIdx → StoreIdx → Instr) (hd : d < 16) (ha : a < 16) (hb : b < 16) :
    threeStores f [.store d, .store a, .store b] =
      some (f (BitVec.ofNat 4 d) (BitVec.ofNat 4 a) (BitVec.ofNat 4 b)) := by
  rw [threeStores, storeArg_of_lt hd, storeArg_of_lt ha, storeArg_of_lt hb, Option.bind_some, Option.bind_some,
    Option.map_some]

theorem storeInt_of_lt (f : StoreIdx → Word64 → Instr) (hd : d < 16) (hn : n < 2 ^ 64) :
    storeInt f [.store d, .int n] = some (f (BitVec.ofNat 4 d) (BitVec.ofNat 64 n)) := by
  rw [storeInt, storeArg_of_lt hd, intArg_of_lt hn, Option.bind_some, Option.map_some]

theorem storeIntBit_of_lt (f : StoreIdx → Word64 → Bool → Instr) (hd : d < 16) (hn : n < 2 ^ 64) (hv : v < 2) :
    storeIntBit f [.store d, .int n, .int v] = some (f (BitVec.ofNat 4 d) (BitVec.ofNat 64 n) (decide (v = 1))) := by
  rw [storeIntBit, storeArg_of_lt hd, intArg_of_lt hn, bitArg_of_lt hv, Option.bind_some, Option.bind_some,
    Option.map_some]

theorem oneInt_of_lt (f : Word64 → Instr) (hn : n < 2 ^ 64) : oneInt f [.int n] = some (f (BitVec.ofNat 64 n)) := by
  rw [oneInt, intArg_of_lt hn, Option.map_some]

theorem intSample_of_lt (f : Word64 → Word32 → Instr) (hn : n < 2 ^ 64) {x : Arg} {w : Word32}
    (hx : sampleArg x = some w) : intSample f [.int n, x] = some (f (BitVec.ofNat 64 n) w) := by
  rw [intSample, intArg_of_lt hn, hx, Option.bind_some, Option.map_some]

theorem oneSample_of_sampleArg (f : Word32 → Instr) {x : Arg} {w : Word32} (hx : sampleArg x = some w) :
    oneSample f [x] = some (f w) := by
  rw [oneSample, hx, Option.map_some]

end forms

/-! #### The command of a line -/

theorem opcode_of_map {α : Type} {o : Opcode} {f : α → Instr} {x : Option α} {i : Instr}
    (hf : ∀ a, (f a).opcode = o) (h : x.map f = some i) : i.opcode = o := by
  obtain ⟨a, -, rfl⟩ := Option.map_eq_some_iff.mp h
  exact hf a

section forms
variable {o : Opcode} {args : List Arg} {i : Instr}

theorem opcode_of_oneStore {f : StoreIdx → Instr} (hf : ∀ a, (f a).opcode = o) (h : oneStore f args = some i) :
    i.opcode = o := by
  unfold oneStore at h
  split at h
  · exact opcode_of_map hf h
  · contradiction

theorem opcode_of_twoStores {f : StoreIdx → StoreIdx → Instr} (hf : ∀ a b, (f a b).opcode = o)
    (h : twoStores f args = some i) : i.opcode = o := by
  unfold twoStores at h
  split at h
  · obtain ⟨a, -, h⟩ := Option.bind_eq_some_iff.mp h
    exact opcode_of_map (hf a) h
  · contradiction

theorem opcode_of_threeStores {f : StoreIdx → StoreIdx → StoreIdx → Instr} (hf : ∀ a b d, (f a b d).opcode = o)
    (h : threeStores f args = some i) : i.opcode = o := by
  unfold threeStores at h
  split at h
  · obtain ⟨a, -, h⟩ := Option.bind_eq_some_iff.mp h
    obtain ⟨b, -, h⟩ := Option.bind_eq_some_iff.mp h
    exact opcode_of_map (hf a b) h
  · contradiction

theorem opcode_of_storeInt {f : StoreIdx → Word64 → Instr} (hf : ∀ a n, (f a n).opcode = o)
    (h : storeInt f args = some i) : i.opcode = o := by
  unfold storeInt at h
  split at h
  · obtain ⟨a, -, h⟩ := Option.bind_eq_some_iff.mp h
    exact opcode_of_map (hf a) h
  · contradiction

theorem opcode_of_storeIntBit {f : StoreIdx → Word64 → Bool → Instr} (hf : ∀ a n v, (f a n v).opcode = o)
    (h : storeIntBit f args = some i) : i.opcode = o := by
  unfold storeIntBit at h
  split at h
  · obtain ⟨a, -, h⟩ := Option.bind_eq_some_iff.mp h
    obtain ⟨n, -, h⟩ := Option.bind_eq_some_iff.mp h
    exact opcode_of_map (hf a n) h
  · contradiction

theorem opcode_of_oneInt {f : Word64 → Instr} (hf : ∀ n, (f n).opcode = o) (h : oneInt f args = some i) :
    i.opcode = o := by
  unfold oneInt at h
  split at h
  · exact opcode_of_map hf h
  · contradiction

theorem opcode_of_oneSample {f : Word32 → Instr} (hf : ∀ w, (f w).opcode = o) (h : oneSample f args = some i) :
    i.opcode = o := by
  unfold oneSample at h
  split at h
  · exact opcode_of_map hf h
  · contradiction

theorem opcode_of_intSample {f : Word64 → Word32 → Instr} (hf : ∀ n w, (f n w).opcode = o)
    (h : intSample f args = some i) : i.opcode = o := by
  unfold intSample at h
  split at h
  · obtain ⟨n, -, h⟩ := Option.bind_eq_some_iff.mp h
    exact opcode_of_map (hf n) h
  · contradiction

theorem opcode_of_noOperand {j : Instr} (hj : j.opcode = o) (h : noOperand j args = some i) : i.opcode = o := by
  unfold noOperand at h
  split at h
  · exact Option.some.inj h ▸ hj
  · contradiction

/-- A line names a command of its mnemonic, whatever its operands are. -/
theorem opcode_of_parseLine (h : parseLine o args = some i) : i.opcode = o := by
  cases o with
  | bzero | ball | bany | bnone | bcount | btou => exact opcode_of_oneStore (fun _ => rfl) h
  | bnot | beq | banda | bora | bxora => exact opcode_of_twoStores (fun _ _ => rfl) h
  | band | bor | bxor => exact opcode_of_threeStores (fun _ _ _ => rfl) h
  | bldu | bget | btest => exact opcode_of_storeInt (fun _ _ => rfl) h
  | bset => exact opcode_of_storeIntBit (fun _ _ _ => rfl) h
  | vappend => exact opcode_of_oneSample (fun _ => rfl) h
  | vget => exact opcode_of_oneInt (fun _ => rfl) h
  | vset => exact opcode_of_intSample (fun _ _ => rfl) h
  | vsize => exact opcode_of_noOperand rfl h

end forms

theorem decode_of_assemble {o : Opcode} {args : List Arg} {r : Request} (h : assemble o args = some r) :
    ∃ i, decode r = some i ∧ i.opcode = o ∧ parseLine o args = some i := by
  obtain ⟨i, hparse, rfl⟩ := Option.map_eq_some_iff.mp h
  exact ⟨i, decode_encode i, opcode_of_parseLine hparse, hparse⟩

/-- Settles O7: a row's line is parsed to its command, whose word is the formula's; a decimal literal is rounded to the
nearest word; and a line that assembles decodes to what was parsed. -/
theorem assembledLineDecodes : Obligations.AssembledLineDecodes := by
  refine ⟨fun d a b n v m k neg x hd ha hb hn hv => ?_,
    fun neg m k => ⟨signBitOf_binary32OfDecimal neg m k, binary32OfDecimal_nearestEven neg⟩,
    fun _ _ _ => decode_of_assemble⟩
  have zero : (0 : Nat) < 16 := by omega
  have noBit : (0 : Nat) < 2 := by omega
  exact ⟨assemble_eq_lineWord (oneStore_of_lt _ hd) hd zero zero noBit rfl,
    assemble_eq_lineWord (storeInt_of_lt _ hd hn) hd zero zero noBit rfl,
    assemble_eq_lineWord (storeInt_of_lt _ ha hn) zero ha zero noBit rfl,
    assemble_eq_lineWord (storeIntBit_of_lt _ hd hn hv) hd zero zero hv rfl,
    assemble_eq_lineWord (storeInt_of_lt _ ha hn) zero ha zero noBit rfl,
    assemble_eq_lineWord (oneStore_of_lt _ ha) zero ha zero noBit rfl,
    assemble_eq_lineWord (oneStore_of_lt _ ha) zero ha zero noBit rfl,
    assemble_eq_lineWord (oneStore_of_lt _ ha) zero ha zero noBit rfl,
    assemble_eq_lineWord (oneStore_of_lt _ ha) zero ha zero noBit rfl,
    assemble_eq_lineWord (threeStores_of_lt _ hd ha hb) hd ha hb noBit rfl,
    assemble_eq_lineWord (threeStores_of_lt _ hd ha hb) hd ha hb noBit rfl,
    assemble_eq_lineWord (threeStores_of_lt _ hd ha hb) hd ha hb noBit rfl,
    assemble_eq_lineWord (twoStores_of_lt _ hd ha) hd ha zero noBit rfl,
    assemble_eq_lineWord (twoStores_of_lt _ ha hb) zero ha hb noBit rfl,
    assemble_eq_lineWord (twoStores_of_lt _ hd hb) hd zero hb noBit rfl,
    assemble_eq_lineWord (twoStores_of_lt _ hd hb) hd zero hb noBit rfl,
    assemble_eq_lineWord (twoStores_of_lt _ hd hb) hd zero hb noBit rfl,
    assemble_eq_lineWord (oneStore_of_lt _ ha) zero ha zero noBit rfl,
    assemble_eq_lineWord (oneSample_of_sampleArg .vappend (x := .sample x) rfl) zero zero zero noBit rfl,
    assemble_eq_lineWord (oneInt_of_lt _ hn) zero zero zero noBit rfl,
    assemble_eq_lineWord (intSample_of_lt _ hn rfl) zero zero zero noBit rfl,
    assemble_eq_lineWord (i := .vsize) rfl zero zero zero noBit rfl,
    assemble_eq_lineWord (oneSample_of_sampleArg .vappend (x := .decimal neg m k) rfl) zero zero zero noBit rfl,
    assemble_eq_lineWord (intSample_of_lt _ hn rfl) zero zero zero noBit rfl⟩

end Sys2Proof.Machine
